-- ==== Sys2Proof/Word.lean ====
section
/-! DEFINITION. The word types of the core (spec/00_scope.md R10): a word is 32 bits, a byte is 8 bits,
a host command is 12 bits (spec/30_encoding.md R48), the response is 9 bits (R50) and the sequencer word is 5 bits (R49).
Bit 0 is the least significant bit, and every value is unsigned. -/

namespace Sys2Proof

/-- A 32-bit word (R7, R10). -/
abbrev Word := BitVec 32

/-- An 8-bit byte (R10). -/
abbrev Byte := BitVec 8

/-- A host command word `cmd[11:0]` (R48). -/
abbrev CmdWord := BitVec 12

/-- The sequencer word `uop[4:0]` (R49). -/
abbrev UopWord := BitVec 5

/-- A response `resp[8:0]` (R50). -/
abbrev RespWord := BitVec 9

end Sys2Proof
end

