-- ==== Sys2Proof/Syntax.lean ====
section
/-! DEFINITION. The instructions: the fourteen rows of spec/opcode_table.json, five host commands
(spec/30_encoding.md R52) and nine micro-operations of the sequencer (R53). -/

namespace Sys2Proof

/-- One constructor per row of the opcode table. Only UPDATE and RDDIG have an operand, the byte imm8 (R51). -/
inductive Instr where
  /-- INIT: begin a new message (R63). -/
  | init
  /-- UPDATE imm8: absorb one message byte (R64). -/
  | update (imm8 : Byte)
  /-- FINAL: pad and finish the message (R65). -/
  | final
  /-- RDDIG imm8: read one byte of the digest (R66). -/
  | rddig (imm8 : Byte)
  /-- RDSTAT: read the status view (R67). -/
  | rdstat
  /-- PADT: write the terminator (R76). -/
  | padt
  /-- PADZ: zero fill up to block offset 56 (R77). -/
  | padz
  /-- PADL: write one byte of the length trailer (R78). -/
  | padl
  /-- LDBLK: load the closed block (R86). -/
  | ldblk
  /-- RND0: a round with T in 0..19 (R104). -/
  | rnd0
  /-- RND1: a round with T in 20..39 (R105). -/
  | rnd1
  /-- RND2: a round with T in 40..59 (R106). -/
  | rnd2
  /-- RND3: a round with T in 60..79 (R107). -/
  | rnd3
  /-- FOLD: add the working registers into the accumulator (R115). -/
  | fold
  deriving DecidableEq, Repr

/-- The two kinds of code the core has: a 12-bit host command (R48), or the 5-bit sequencer word that selects a
micro-operation (R49). Neither has a byte order (spec/20_memory.md R38). -/
inductive Code where
  | command (w : CmdWord)
  | micro (u : UopWord)
  deriving DecidableEq, Repr

end Sys2Proof
end

