-- ==== Sys2Proof/WellFormed.lean ====
section
/-! DEFINITION. Which instructions have an encoding: every one but RDDIG with an index above 19
(spec/30_encoding.md R52, R58). -/

namespace Sys2Proof

/-- An instruction is well formed when the operand constraint of its table row holds (R52): the one constraint is
`imm8 <= 19` of RDDIG. -/
def Instr.wellFormed : Instr → Bool
  | .rddig imm8 => decide (imm8.toNat ≤ 19)
  | .init => true
  | .update _ => true
  | .final => true
  | .rdstat => true
  | .padt => true
  | .padz => true
  | .padl => true
  | .ldblk => true
  | .rnd0 => true
  | .rnd1 => true
  | .rnd2 => true
  | .rnd3 => true
  | .fold => true

/-- The host commands of R52; the other nine constructors are micro-operations (R53). -/
def Instr.isCommand : Instr → Bool
  | .init => true
  | .update _ => true
  | .final => true
  | .rddig _ => true
  | .rdstat => true
  | .padt => false
  | .padz => false
  | .padl => false
  | .ldblk => false
  | .rnd0 => false
  | .rnd1 => false
  | .rnd2 => false
  | .rnd3 => false
  | .fold => false

end Sys2Proof
end

