-- ==== Sys2Proof/Decode.lean ====
section
/-! DEFINITION. The two decoders (spec/30_encoding.md R52 to R58) and the encoder. Decoding is total and depends on
the word alone (R54, R55); a word that is no instruction is rejected under the name of the rule that makes it so. -/

namespace Sys2Proof

/-- Why a word is no instruction. -/
inductive DecodeError where
  /-- The opcode `cmd[11:8]` is 5 to 15 (R56). -/
  | reservedOpcode
  /-- INIT, FINAL or RDSTAT with a low byte that is not zero (R57). -/
  | nonzeroLowByte
  /-- RDDIG with an index of 20 or more (R58). -/
  | digestIndex
  /-- A sequencer word of a quiescent phase, ABSORB or DONE, selects no micro-operation (R53). -/
  | quiescentPhase
  deriving DecidableEq, Repr

/-- `op = cmd[11:8]` (R48). -/
def cmdOp (w : CmdWord) : BitVec 4 := w.extractLsb' 8 4

/-- `imm8 = cmd[7:0]`, taken as it stands (R48, R51). -/
def cmdImm8 (w : CmdWord) : Byte := w.extractLsb' 0 8

/-- A command of format C0: the low byte is reserved and must be zero (R48, R57). -/
def noOperand (w : CmdWord) (i : Instr) : Except DecodeError Instr :=
  if cmdImm8 w = 0 then .ok i else .error .nonzeroLowByte

/-- The command decoder (R52, R54, R56 to R58). -/
def decodeCommand (w : CmdWord) : Except DecodeError Instr :=
  if cmdOp w = 0x0 then noOperand w .init
  else if cmdOp w = 0x1 then .ok (.update (cmdImm8 w))
  else if cmdOp w = 0x2 then noOperand w .final
  else if cmdOp w = 0x3 then
    if (cmdImm8 w).toNat ≤ 19 then .ok (.rddig (cmdImm8 w)) else .error .digestIndex
  else if cmdOp w = 0x4 then noOperand w .rdstat
  else .error .reservedOpcode

/-- `PHASE = uop[4:2]` (R49). -/
def uopPhase (u : UopWord) : BitVec 3 := u.extractLsb' 2 3

/-- `SEL = uop[1:0]` (R49). -/
def uopSel (u : UopWord) : BitVec 2 := u.extractLsb' 0 2

/-- The micro-operation selection (R53): SEL matters only in phase 5, ROUND. -/
def decodeMicro (u : UopWord) : Except DecodeError Instr :=
  if uopPhase u = 1 then .ok .padt
  else if uopPhase u = 2 then .ok .padz
  else if uopPhase u = 3 then .ok .padl
  else if uopPhase u = 4 then .ok .ldblk
  else if uopPhase u = 5 then
    if uopSel u = 0 then .ok .rnd0
    else if uopSel u = 1 then .ok .rnd1
    else if uopSel u = 2 then .ok .rnd2
    else .ok .rnd3
  else if uopPhase u = 6 then .ok .fold
  else .error .quiescentPhase

/-- The decoder over both kinds of code. -/
def decode : Code → Except DecodeError Instr
  | .command w => decodeCommand w
  | .micro u => decodeMicro u

/-- The decoder from an instruction laid out as spec/opcode_table.json numbers its bits. A row of the table of at
most 8 bits (5, in whole bytes 8) is a sequencer word, a longer one (12, in whole bytes 16) a host command. A bit
above the word's width has no place in it, so a number that sets one is no instruction. Log entry 14. -/
def decodeTableWord (nbits w : Nat) : Option Instr :=
  if nbits ≤ 8 then
    if w < 32 then (decodeMicro (BitVec.ofNat 5 w)).toOption else none
  else
    if w < 4096 then (decodeCommand (BitVec.ofNat 12 w)).toOption else none

/-- The words of an instruction, from the tables of R52 and R53 and the assembler's encodings of R61. The ignored SEL
bits of a micro-operation are encoded as zero (R49 "in every other phase T = 0 and so SEL = 0"). -/
def encode : Instr → Code
  | .init => .command 0x000#12
  | .update imm8 => .command (0x1#4 ++ imm8)
  | .final => .command 0x200#12
  | .rddig imm8 => .command (0x3#4 ++ imm8)
  | .rdstat => .command 0x400#12
  | .padt => .micro 0b00100#5
  | .padz => .micro 0b01000#5
  | .padl => .micro 0b01100#5
  | .ldblk => .micro 0b10000#5
  | .rnd0 => .micro 0b10100#5
  | .rnd1 => .micro 0b10101#5
  | .rnd2 => .micro 0b10110#5
  | .rnd3 => .micro 0b10111#5
  | .fold => .micro 0b11000#5

/-- The match and mask columns of the tables of R52 and R53, as numbers. -/
def tableRow : Instr → Nat × Nat
  | .init => (0x000, 0xFFF)
  | .update _ => (0x100, 0xF00)
  | .final => (0x200, 0xFFF)
  | .rddig _ => (0x300, 0xF00)
  | .rdstat => (0x400, 0xFFF)
  | .padt => (0x04, 0x1C)
  | .padz => (0x08, 0x1C)
  | .padl => (0x0C, 0x1C)
  | .ldblk => (0x10, 0x1C)
  | .rnd0 => (0x14, 0x1F)
  | .rnd1 => (0x15, 0x1F)
  | .rnd2 => (0x16, 0x1F)
  | .rnd3 => (0x17, 0x1F)
  | .fold => (0x18, 0x1C)

/-- A code as a number, bit 0 the least significant. -/
def Code.toNat : Code → Nat
  | .command w => w.toNat
  | .micro u => u.toNat

end Sys2Proof
end

