-- ==== Sys2Proof/Config.lean ====
section
/-! DEFINITION. What the spec leaves open (spec/93_implementation_defined.md U3): the scratch storage after a reset.
Each constant is opaque, so no proof can learn a value of it. There is nothing else to configure: every parameter
of the algorithm and of the interface is fixed (spec/00_scope.md R7, R9, R15). -/

namespace Sys2Proof

/-- The byte that BUF[address] reads as when nothing has written it since reset number `epoch`
(R143 "each bit is unspecified and may differ from one reset to the next"). Log entry 5. -/
opaque Config.scratchByte (epoch address : Nat) : Byte

/-- The value of a scratch word after reset number `epoch` (R143, R144 "keeping whatever they held or taking any
other value"): indices 0 to 4 are A to E, indices 5 to 20 are SR[0] to SR[15]. Log entry 6. -/
opaque Config.scratchWord (epoch index : Nat) : Word

end Sys2Proof
end

