-- ==== Sys2Proof/Machine/State.lean ====
section
/-! DEFINITION. The state of the core as plain data: the registers of spec/10_state.md R16, "and nothing else", as
`Registers`, and `State`, which adds the interface the spec names beside them (spec/60_exceptions.md R137, R140): the
response port, the trace stream and the host's moves. -/

namespace Sys2Proof.Machine

/-- The eight values of the 3-bit registers PHASE and RET (R28, R30). -/
inductive Phase where
  /-- 0: accepting message bytes; quiescent. -/
  | absorb
  /-- 1: terminator byte due. -/
  | padTerm
  /-- 2: zero fill. -/
  | padZero
  /-- 3: length trailer. -/
  | padLen
  /-- 4: block complete, load SR and the working registers. -/
  | load
  /-- 5: eighty rounds in progress. -/
  | round
  /-- 6: rounds complete, accumulate. -/
  | fold
  /-- 7: digest valid; quiescent. -/
  | done
  deriving DecidableEq, Repr

/-- The four values of the 2-bit register ECODE (R32, R120). -/
inductive Cause where
  /-- 0: no exception since the last INIT or reset. -/
  | none
  /-- 1: ILLEGAL_COMMAND. -/
  | illegalCommand
  /-- 2: PROTOCOL. -/
  | protocol
  /-- 3: LENGTH_OVERFLOW. -/
  | lengthOverflow
  deriving DecidableEq, Repr

/-- The digest accumulator H[0..4] (R20), separate storage from the working registers (R18, R112). -/
structure Accumulator where
  h0 : Word
  h1 : Word
  h2 : Word
  h3 : Word
  h4 : Word
  deriving DecidableEq, Repr

/-- The working registers A to E (R17). -/
structure WorkingState where
  a : Word
  b : Word
  c : Word
  d : Word
  e : Word
  deriving DecidableEq, Repr

/-- A trace event (R138). -/
inductive Event where
  /-- `BLOCK(w0, ..., w15)`, emitted by LDBLK. -/
  | block (words : Vector Word 16)
  /-- `W(t, w)`, emitted by every round. -/
  | schedule (t : BitVec 7) (w : Word)
  /-- `ROUND(t, a, b, c, d, e)`, emitted by every round after its W event. -/
  | round (t : BitVec 7) (a b c d e : Word)
  deriving DecidableEq, Repr

/-- A move of the host (R14, R141). Reading the response needs no move. -/
inductive HostMove where
  /-- The host does nothing for one step of the core. -/
  | wait
  /-- The host offers a command word and holds it until it is transferred (R140, R149). -/
  | command (w : CmdWord)
  /-- The host asserts `rst` (R144). -/
  | reset
  deriving DecidableEq, Repr

/-- The contents of the block buffer: the bytes written since the last reset, by address. An address that is not
listed has not been written, and has no value here (`Memory.get?`, log entry 5). -/
abbrev Memory := List Host.Cell

/-- The complete architectural state, exactly the fields of R16. -/
structure Registers where
  /-- H[0..4] (R20). -/
  acc : Accumulator
  /-- A to E (R17). -/
  work : WorkingState
  /-- SR[0..15] (R21). -/
  sr : Vector Word 16
  /-- BUF[0..63] (R23). -/
  buf : Memory
  /-- LEN (R25). -/
  len : BitVec 61
  /-- POS (R26). -/
  pos : BitVec 6
  /-- PHASE (R28). -/
  phase : Phase
  /-- T (R29). -/
  t : BitVec 7
  /-- RET (R30). -/
  ret : Phase
  /-- ERR (R32). -/
  err : Bool
  /-- ECODE (R32). -/
  ecode : Cause
  deriving DecidableEq, Repr

/-- The registers and the interface. -/
structure State extends Registers where
  /-- The response port `resp[8:0]` (R50): the response to the last command executed; none before the first command
  after a reset. The host may read it when the core is quiescent (R140). Log entry 7. -/
  resp : Option RespWord
  /-- The trace stream, oldest event first (R137). -/
  trace : List Event
  /-- The moves the host will make, the next one first; empty when it makes none (R14, R141). The model's own field,
  log entry 2. -/
  host : List HostMove
  /-- How many times the host has asserted reset: the index of the free values the scratch storage then takes (R143,
  R144). The model's own field, log entry 6. -/
  resets : Nat
  deriving DecidableEq, Repr

/-- Why the machine stops. Both constructors are the `stuck` of spec/93_implementation_defined.md. -/
inductive Fault where
  /-- Raised by the sequencer, by FOLD and by PADL in a state of U5 that no run reaches; safe (the spec gives the
  state no step). -/
  | unreachableState
  /-- Raised by the sequencer and by RND0 to RND3 with T in 80 to 127, which selects no round (U6); safe. -/
  | noRoundSelected
  deriving DecidableEq, Repr

/-- Why the machine refuses. -/
inductive Refusal where
  /-- Raised by `exec` for an instruction that has no meaning yet; safe. -/
  | notModelled (mnemonic : String)
  /-- Raised by a host command executed while the core is not quiescent (U7, R149 "the model has no step for it");
  safe. The sequencer never executes one so. -/
  | commandWhileBusy
  /-- Raised by a micro-operation executed in a phase, or with a SEL, that does not select it (R28, R53); safe. The
  sequencer never executes one so. -/
  | notSelected
  deriving DecidableEq, Repr

/-- The initial accumulator value IV (R113). -/
def Accumulator.iv : Accumulator :=
  { h0 := 0x67452301#32, h1 := 0xEFCDAB89#32, h2 := 0x98BADCFE#32, h3 := 0x10325476#32, h4 := 0xC3D2E1F0#32 }

/-- The core right after power-on reset: R142 for the control, status and persistent registers. The working and
schedule registers, which R143 leaves unspecified, are zero (DESIGN CHOICE, log entry 4); no byte of the buffer has
been written; the response port is empty, no event has been emitted and the host makes no move. -/
def State.reset : State where
  acc := Accumulator.iv
  work := { a := 0#32, b := 0#32, c := 0#32, d := 0#32, e := 0#32 }
  sr := Vector.replicate 16 0#32
  buf := []
  len := 0#61
  pos := 0#6
  phase := .absorb
  t := 0#7
  ret := .absorb
  err := false
  ecode := .none
  resp := none
  trace := []
  host := []
  resets := 0

end Sys2Proof.Machine
end

