-- ==== Sys2Proof/Machine/Operands.lean ====
section
/-! DEFINITION. The primitives and constants the rules are written in: rotation, byte order (spec/00_scope.md R11,
R12), the function unit and the constant table (spec/44_compression_round.md R98 to R101), and the operand forms the
micro-operations take from state. Addition modulo 2^32 (ADD32) is the addition of `Word`. -/

namespace Sys2Proof.Machine

/-- `ROTL32(x, n) = x[31-n:0] ‖ x[31:32-n]` (R11). -/
def rotl32 (x : Word) (n : Nat) : Word := (x <<< n) ||| (x >>> (32 - n))

/-- `BE32(b0, b1, b2, b3) = b0 ‖ b1 ‖ b2 ‖ b3` (R12). -/
def be32 (b0 b1 b2 b3 : Byte) : Word := b0 ++ b1 ++ b2 ++ b3

/-- `BYTE32(w, k)`, k in 0..3: byte k of w counted from the most significant (R12). -/
def byte32 (w : Word) (k : Nat) : Byte := w.extractLsb' (24 - 8 * k) 8

/-- `BYTE64(v, j)`, j in 0..7: byte j of v counted from the most significant (R12). -/
def byte64 (v : BitVec 64) (j : Nat) : Byte := v.extractLsb' (56 - 8 * j) 8

/-- `FCH(B, C, D) = (B & C) | (~B & D)` (R98). -/
def fch (b c d : Word) : Word := (b &&& c) ||| (~~~b &&& d)

/-- `FPAR(B, C, D) = B ^ C ^ D` (R98). -/
def fpar (b c d : Word) : Word := b ^^^ c ^^^ d

/-- `FMAJ(B, C, D) = (B & C) | (B & D) | (C & D)` (R98). -/
def fmaj (b c d : Word) : Word := (b &&& c) ||| (b &&& d) ||| (c &&& d)

/-- The function selector (R100). -/
def fsel (s : BitVec 2) (b c d : Word) : Word :=
  if s = 0 then fch b c d
  else if s = 1 then fpar b c d
  else if s = 2 then fmaj b c d
  else fpar b c d

/-- The constant look-up table (R101). -/
def klut (s : BitVec 2) : Word :=
  if s = 0 then 0x5A827999#32
  else if s = 1 then 0x6ED9EBA1#32
  else if s = 2 then 0x8F1BBCDC#32
  else 0xCA62C1D6#32

/-- `SEL(T)` (R29): none for T in 80 to 127, which selects no round variant (spec/93_implementation_defined.md U6). -/
def sel (t : BitVec 7) : Option (BitVec 2) :=
  if t.toNat ≤ 19 then some 0
  else if t.toNat ≤ 39 then some 1
  else if t.toNat ≤ 59 then some 2
  else if t.toNat ≤ 79 then some 3
  else none

/-- `MAXLEN = 2^61 - 1` (R8), the greatest value of LEN. -/
def maxLen : BitVec 61 := BitVec.ofNat 61 (2 ^ 61 - 1)

/-- The 3-bit value of a phase (R28). -/
def Phase.code : Phase → BitVec 3
  | .absorb => 0
  | .padTerm => 1
  | .padZero => 2
  | .padLen => 3
  | .load => 4
  | .round => 5
  | .fold => 6
  | .done => 7

/-- The phase of a 3-bit value (R28). -/
def Phase.ofCode (c : BitVec 3) : Phase :=
  if c = 0 then .absorb
  else if c = 1 then .padTerm
  else if c = 2 then .padZero
  else if c = 3 then .padLen
  else if c = 4 then .load
  else if c = 5 then .round
  else if c = 6 then .fold
  else .done

/-- ABSORB and DONE are quiescent: no micro-operation is enabled and the core accepts a command (R28). -/
def Phase.quiescent (p : Phase) : Bool := p = .absorb || p = .done

/-- The values RET takes: ABSORB, PAD_ZERO and DONE (R30). -/
def Phase.isReturn (p : Phase) : Bool := p = .absorb || p = .padZero || p = .done

/-- The 2-bit value of ECODE (R120). -/
def Cause.code : Cause → BitVec 2
  | .none => 0
  | .illegalCommand => 1
  | .protocol => 2
  | .lengthOverflow => 3

/-- H[i] for i in 0..4 (R20). -/
def Accumulator.word (h : Accumulator) (i : Nat) : Word :=
  if i = 0 then h.h0
  else if i = 1 then h.h1
  else if i = 2 then h.h2
  else if i = 3 then h.h3
  else h.h4

/-- `DIGEST_BYTE(i) = BYTE32(H[i div 4], i mod 4)`, i in 0..19 (R33, R116). -/
def Accumulator.digestByte (h : Accumulator) (i : Nat) : Byte := byte32 (h.word (i / 4)) (i % 4)

/-- `BITLEN = LEN ‖ 0b000` (R25, R75). -/
def State.bitLen (s : State) : BitVec 64 := s.len ++ 0#3

/-- The trailer byte PADL writes: `BYTE64(BITLEN, POS - 56)` (R78). -/
def State.trailerByte (s : State) : Byte := byte64 s.bitLen (s.pos.toNat - 56)

/-- The sequencer word `PHASE ‖ SEL` (R49). Outside ROUND the selection ignores SEL, which is then 0 (R36). -/
def State.uop (s : State) : Option UopWord :=
  if s.phase = .round then (sel s.t).map (fun k => s.phase.code ++ k) else some (s.phase.code ++ 0#2)

end Sys2Proof.Machine
end

