-- ==== Sys2Proof/Machine/Flags.lean ====
section
/-! DEFINITION. The views computed from the registers: STATUS, DV (spec/10_state.md R32), DIGEST (R33), the output
signals (spec/60_exceptions.md R131, R140) and the response words (spec/30_encoding.md R50). None of them holds a
bit of its own (R16). The core has no arithmetic flag (R31). -/

namespace Sys2Proof.Machine

/-- `DV = 1 if PHASE = DONE and ERR = 0, else 0` (R32). -/
def State.dv (s : State) : Bool := s.phase = .done && !s.err

/-- STATUS: `0 ‖ PHASE[2:0] ‖ ECODE[1:0] ‖ ERR ‖ DV` (R32, R67). -/
def State.status (s : State) : Byte :=
  0#1 ++ s.phase.code ++ s.ecode.code ++ BitVec.ofBool s.err ++ BitVec.ofBool s.dv

/-- `DIGEST = H[0] ‖ H[1] ‖ H[2] ‖ H[3] ‖ H[4]` (R33). -/
def Accumulator.digest (h : Accumulator) : BitVec 160 := h.h0 ++ h.h1 ++ h.h2 ++ h.h3 ++ h.h4

/-- The optional digest port: DIGEST when DV = 1 and zero otherwise (R117). -/
def State.digestPort (s : State) : BitVec 160 := if s.dv then s.acc.digest else 0

/-- `cmd_ready`: 1 exactly when PHASE is ABSORB or DONE (R140). -/
def State.cmdReady (s : State) : Bool := s.phase.quiescent

/-- `resp_valid`: the transaction of the last command has reached quiescence and its response stands on the port
(R62, R140). -/
def State.respValid (s : State) : Bool := s.phase.quiescent && s.resp.isSome

/-- `digest_valid = DV` (R131). -/
def State.digestValid (s : State) : Bool := s.dv

/-- `error = ERR` (R131). -/
def State.errorOut (s : State) : Bool := s.err

/-- The response of a command that raised nothing: `err = 0`, `rdata` (R50). -/
def respOk (rdata : Byte) : RespWord := 0#1 ++ rdata

/-- The response of a command that raised an exception: `err = 1`, `rdata = 0x00` (R50, R125). -/
def respError : RespWord := 1#1 ++ 0x00#8

end Sys2Proof.Machine
end

