-- ==== Sys2Proof/Machine/Ops.lean ====
section
/-! DEFINITION. The shared operations: the block buffer, the byte path PutByte (spec/42_block_splitter.md R84), the
trace (spec/60_exceptions.md R137), admission (R124), exception entry (R125), the re-initialisation INIT and reset
share (spec/70_reset_and_hazards.md R142), and the guards of R28. -/

namespace Sys2Proof.Machine

/-- The byte at an address of the buffer, if something has written it since the last reset. -/
def Memory.get? : Memory → Nat → Option Byte
  | [], _ => none
  | (k, v) :: m, a => if k = a then some v else Memory.get? m a

/-- Write one byte. The addresses stay strictly rising, with one entry for each (`Memory.wf`). -/
def Memory.put : Memory → Nat → Byte → Memory
  | [], a, b => [(a, b)]
  | (k, v) :: m, a, b =>
    if a < k then (a, b) :: (k, v) :: m
    else if a = k then (a, b) :: m
    else (k, v) :: Memory.put m a b

/-- The canonical form: addresses strictly rising, all inside the buffer space 0 to 63 (R37). An unlisted address reads
as no value, which no entry can equal. -/
abbrev Memory.wf (m : Memory) : Prop := m.Pairwise (fun x y => x.1 < y.1) ∧ ∀ c ∈ m, c.1 < 64

/-- `MemRead(a, 1) = BUF[a]` (R13). A byte nothing has written since the last reset is a free value (R143, U3). -/
def State.bufByte (s : State) (a : Nat) : Byte := (s.buf.get? a).getD (Config.scratchByte s.resets a)

/-- Word i of the block in the buffer: `BE32(BUF[4i], BUF[4i+1], BUF[4i+2], BUF[4i+3])` (R38, R86). -/
def State.blockWord (s : State) (i : Nat) : Word :=
  be32 (s.bufByte (4 * i)) (s.bufByte (4 * i + 1)) (s.bufByte (4 * i + 2)) (s.bufByte (4 * i + 3))

/-- The sixteen words of the block in the buffer (R86). -/
def State.blockWords (s : State) : Vector Word 16 := Vector.ofFn (fun i : Fin 16 => s.blockWord i.val)

/-- `emit e`: append an event to the trace stream (R13, R137). -/
def State.emit (s : State) (e : Event) : State := { s with trace := s.trace ++ [e] }

/-- `resp <- r` (R50). -/
def State.respond (s : State) (r : RespWord) : State := { s with resp := some r }

/-- The host's next move has been made. -/
def State.setHost (s : State) (moves : List HostMove) : State := { s with host := moves }

/-- `MemWrite(POS, 1, b)`: `BUF[POS] <- b` (R13, R84). -/
def State.writeBuf (s : State) (b : Byte) : State := { s with buf := s.buf.put s.pos.toNat b }

/-- `POS <- 0; RET <- ret; PHASE <- LOAD`: the block is complete (R84). -/
def State.closeBlock (s : State) (ret : Phase) : State := { s with pos := 0#6, ret := ret, phase := .load }

/-- `POS <- POS + 1; PHASE <- cont`: the block is not complete (R84). -/
def State.advance (s : State) (cont : Phase) : State := { s with pos := s.pos + 1#6, phase := cont }

/-- `PutByte(b, cont, ret)` (R84). -/
def State.putByte (s : State) (b : Byte) (cont ret : Phase) : State :=
  if s.pos = 63#6 then (s.writeBuf b).closeBlock ret else (s.writeBuf b).advance cont

/-- Exception entry, `raise X` with code c (R125): the first cause is kept (R127), the response is `err = 1`,
`rdata = 0x00`, and nothing else changes. -/
def State.raise (s : State) (c : Cause) : State :=
  if s.err then s.respond respError else { s with err := true, ecode := c }.respond respError

/-- What INIT and reset load into the control, status and persistent registers (R63, R142); it is also how the error
state is left (R126). The scratch registers are unchanged. -/
def State.initialise (s : State) : State :=
  { s with acc := Accumulator.iv, len := 0#61, pos := 0#6, t := 0#7, phase := .absorb, ret := .absorb, err := false,
           ecode := .none }

/-- The working registers after reset number `epoch`, unspecified (R143, R144). -/
def scratchWork (epoch : Nat) : WorkingState :=
  { a := Config.scratchWord epoch 0, b := Config.scratchWord epoch 1, c := Config.scratchWord epoch 2,
    d := Config.scratchWord epoch 3, e := Config.scratchWord epoch 4 }

/-- The schedule register file after reset number `epoch`, unspecified (R143, R144). -/
def scratchSr (epoch : Nat) : Vector Word 16 := Vector.ofFn (fun i : Fin 16 => Config.scratchWord epoch (5 + i.val))

/-- The reset event (R142 to R145): possible at any moment, it abandons what was in progress, returns no response,
loads the registers of R142, leaves the scratch registers with any value and keeps the trace stream. -/
def State.resetEvent (s : State) : State :=
  { s.initialise with
    work := scratchWork (s.resets + 1), sr := scratchSr (s.resets + 1), buf := [], resp := none,
    resets := s.resets + 1 }

/-- Checks 2 to 6 of the admission order (R124) for a command that is a legal word; check 1 is the decoder's
(and RDDIG's own for an index above 19). The first check that fails names the exception; none means admitted. -/
def State.admission (s : State) (i : Instr) : Option Cause :=
  match i with
  | .update _ =>
    if s.err then some .protocol
    else if s.phase ≠ .absorb then some .protocol
    else if s.len = maxLen then some .lengthOverflow
    else none
  | .final =>
    if s.err then some .protocol
    else if s.phase ≠ .absorb then some .protocol
    else none
  | .rddig imm8 =>
    if 20 ≤ imm8.toNat then some .illegalCommand
    else if s.err then some .protocol
    else if s.phase ≠ .done then some .protocol
    else none
  | .init => none
  | .rdstat => none
  | .padt => none
  | .padz => none
  | .padl => none
  | .ldblk => none
  | .rnd0 => none
  | .rnd1 => none
  | .rnd2 => none
  | .rnd3 => none
  | .fold => none

/-- Parts (1) and (2) of a command transaction (R62): admission, then the command's own effect once, or the
exception and no other effect. A command executed while the core is not quiescent has no meaning (R149, U7). -/
def State.command (s : State) (i : Instr) (effect : State) : Host.Outcome State Fault Refusal :=
  if s.phase.quiescent then
    match s.admission i with
    | some c => .next (s.raise c)
    | none => .next effect
  else .refused .commandWhileBusy

/-- A micro-operation is executed only in the phase that enables it (R28). -/
def State.micro (s : State) (p : Phase) (effect : Host.Outcome State Fault Refusal) :
    Host.Outcome State Fault Refusal :=
  if s.phase = p then effect else .refused .notSelected

end Sys2Proof.Machine
end

