-- ==== Sys2Proof/Machine/Accumulate.lean ====
section
/-! DEFINITION. The digest accumulator's micro-operation FOLD (spec/45_digest_accumulator.md R115). -/

namespace Sys2Proof.Machine

/-- `H[i] <- ADD32(H[i], register i)` for i in 0..4 (R115). -/
def Accumulator.add (h : Accumulator) (r : WorkingState) : Accumulator :=
  { h0 := h.h0 + r.a, h1 := h.h1 + r.b, h2 := h.h2 + r.c, h3 := h.h3 + r.d, h4 := h.h4 + r.e }

/-- FOLD (R115): `PHASE <- RET` for the three phases RET takes (R30). With any other RET the state is one that no run
reaches, and FOLD does not go to that phase (U5). -/
def execFold (s : State) : Host.Outcome State Fault Refusal :=
  s.micro .fold
    (if s.ret.isReturn then .next { s with acc := s.acc.add s.work, phase := s.ret }
     else .fault .unreachableState)

end Sys2Proof.Machine
end

