-- ==== Sys2Proof/Machine/Commands.lean ====
section
/-! DEFINITION. The host commands INIT, UPDATE, FINAL, RDDIG and RDSTAT (spec/40_host_commands.md R63 to R67): parts
(1) and (2) of their transactions. Part (3), the run to quiescence, is the sequencer's. -/

namespace Sys2Proof.Machine

/-- INIT (R63). -/
def execInit (s : State) : Host.Outcome State Fault Refusal :=
  s.command .init (s.initialise.respond (respOk 0x00#8))

/-- UPDATE imm8 (R64). -/
def execUpdate (imm8 : Byte) (s : State) : Host.Outcome State Fault Refusal :=
  s.command (.update imm8)
    (({ s with len := s.len + 1#61 }.putByte imm8 .absorb .absorb).respond (respOk 0x00#8))

/-- FINAL (R65). -/
def execFinal (s : State) : Host.Outcome State Fault Refusal :=
  s.command .final ({ s with phase := .padTerm }.respond (respOk 0x00#8))

/-- RDDIG imm8 (R66): an index above 19 raises ILLEGAL_COMMAND (R58). -/
def execRddig (imm8 : Byte) (s : State) : Host.Outcome State Fault Refusal :=
  s.command (.rddig imm8) (s.respond (respOk (s.acc.digestByte imm8.toNat)))

/-- RDSTAT (R67). -/
def execRdstat (s : State) : Host.Outcome State Fault Refusal :=
  s.command .rdstat (s.respond (respOk s.status))

end Sys2Proof.Machine
end

