-- ==== Sys2Proof/Machine/Padder.lean ====
section
/-! DEFINITION. The padder's micro-operations PADT, PADZ and PADL (spec/41_padder.md R76 to R78). -/

namespace Sys2Proof.Machine

/-- PADT (R76). -/
def execPadt (s : State) : Host.Outcome State Fault Refusal :=
  s.micro .padTerm (.next (s.putByte 0x80#8 .padZero .padZero))

/-- PADZ (R77): the test POS = 56 is made before writing. -/
def execPadz (s : State) : Host.Outcome State Fault Refusal :=
  s.micro .padZero
    (.next (if s.pos = 56#6 then { s with phase := .padLen } else s.putByte 0x00#8 .padZero .padZero))

/-- PADL (R78). With POS below 56 there is no trailer byte: a state that no run reaches (U5). -/
def execPadl (s : State) : Host.Outcome State Fault Refusal :=
  s.micro .padLen
    (if s.pos.toNat < 56 then .fault .unreachableState else .next (s.putByte s.trailerByte .padLen .done))

end Sys2Proof.Machine
end

