-- ==== Sys2Proof/Machine/Rounds.lean ====
section
/-! DEFINITION. The schedule step (spec/43_message_schedule.md R92) and the round micro-operations RND0 to RND3
(spec/44_compression_round.md R102 to R107). -/

namespace Sys2Proof.Machine

/-- The output of the XOR tree, rotated: the new word W[t+16] (R92). -/
def scheduleWord (sr : Vector Word 16) : Word := rotl32 (sr[13] ^^^ sr[8] ^^^ sr[2] ^^^ sr[0]) 1

/-- SCHEDSTEP's next contents of SR (R92): shifted by one word, the new word entering at SR[15]. -/
def scheduleStep (sr : Vector Word 16) : Vector Word 16 :=
  Vector.ofFn (fun i : Fin 16 => if h : i.val < 15 then sr[i.val + 1] else scheduleWord sr)

/-- The five-operand adder: `TEMP = (ROTL32(A, 5) + f + E + w + k) mod 2^32` (R102). -/
def roundSum (r : WorkingState) (f w k : Word) : Word := rotl32 r.a 5 + f + r.e + w + k

/-- The five simultaneous register writes of a round (R103). -/
def roundWork (r : WorkingState) (f w k : Word) : WorkingState :=
  { a := roundSum r f w k, b := r.a, c := rotl32 r.b 30, d := r.c, e := r.d }

/-- ROUNDSTEP (R103) with the function value and the constant that SEL picks. -/
def State.roundStep (s : State) (f k : Word) : State :=
  let w := s.sr[0]
  let r := roundWork s.work f w k
  let s' := ({ s with work := r, sr := scheduleStep s.sr }.emit (.schedule s.t w)).emit
    (.round s.t r.a r.b r.c r.d r.e)
  if s.t = 79#7 then { s' with t := 0#7, phase := .fold } else { s' with t := s.t + 1#7 }

/-- A round micro-operation is selected by PHASE = ROUND and its own SEL (R53); T in 80 to 127 selects none (U6). -/
def State.roundMicro (s : State) (k : BitVec 2) (effect : State) : Host.Outcome State Fault Refusal :=
  s.micro .round
    (match sel s.t with
     | none => .fault .noRoundSelected
     | some k' => if k' = k then .next effect else .refused .notSelected)

/-- RND0 (R104). -/
def execRnd0 (s : State) : Host.Outcome State Fault Refusal :=
  s.roundMicro 0 (s.roundStep (fsel 0 s.work.b s.work.c s.work.d) (klut 0))

/-- RND1 (R105). -/
def execRnd1 (s : State) : Host.Outcome State Fault Refusal :=
  s.roundMicro 1 (s.roundStep (fsel 1 s.work.b s.work.c s.work.d) (klut 1))

/-- RND2 (R106). -/
def execRnd2 (s : State) : Host.Outcome State Fault Refusal :=
  s.roundMicro 2 (s.roundStep (fsel 2 s.work.b s.work.c s.work.d) (klut 2))

/-- RND3 (R107). -/
def execRnd3 (s : State) : Host.Outcome State Fault Refusal :=
  s.roundMicro 3 (s.roundStep (fsel 3 s.work.b s.work.c s.work.d) (klut 3))

end Sys2Proof.Machine
end

