-- ==== Sys2Proof/Machine/Splitter.lean ====
section
/-! DEFINITION. The block splitter's micro-operation LDBLK (spec/42_block_splitter.md R86). -/

namespace Sys2Proof.Machine

/-- LDBLK's registers: `SR[i] <- BE32(BUF[4i..4i+3])`, A to E from H, T <- 0, PHASE <- ROUND (R86). -/
def State.loadBlock (s : State) : State :=
  { s with
    sr := s.blockWords,
    work := { a := s.acc.h0, b := s.acc.h1, c := s.acc.h2, d := s.acc.h3, e := s.acc.h4 },
    t := 0#7, phase := .round }

/-- LDBLK (R86), with its BLOCK event (R87). -/
def execLdblk (s : State) : Host.Outcome State Fault Refusal :=
  s.micro .load (.next (s.loadBlock.emit (.block s.blockWords)))

end Sys2Proof.Machine
end

