-- ==== Sys2Proof/Machine/Dispatch.lean ====
section
/-! DEFINITION. One instruction executed: an arm per row of spec/opcode_table.json, each a call of that
instruction's meaning. -/

namespace Sys2Proof.Machine

def exec (i : Instr) (s : State) : Host.Outcome State Fault Refusal :=
  match i with
  | .init => Sys2Proof.Machine.execInit s
  | .update imm8 => Sys2Proof.Machine.execUpdate imm8 s
  | .final => Sys2Proof.Machine.execFinal s
  | .rddig imm8 => Sys2Proof.Machine.execRddig imm8 s
  | .rdstat => Sys2Proof.Machine.execRdstat s
  | .padt => Sys2Proof.Machine.execPadt s
  | .padz => Sys2Proof.Machine.execPadz s
  | .padl => Sys2Proof.Machine.execPadl s
  | .ldblk => Sys2Proof.Machine.execLdblk s
  | .rnd0 => Sys2Proof.Machine.execRnd0 s
  | .rnd1 => Sys2Proof.Machine.execRnd1 s
  | .rnd2 => Sys2Proof.Machine.execRnd2 s
  | .rnd3 => Sys2Proof.Machine.execRnd3 s
  | .fold => Sys2Proof.Machine.execFold s

end Sys2Proof.Machine
end

