-- ==== Sys2Proof/Machine/Sequencer.lean ====
section
/-! DEFINITION. The sequencer: what the core does in one step (spec/10_state.md R28, spec/40_host_commands.md R62,
spec/70_reset_and_hazards.md R147, R149), the transaction as a whole (R62), and how an instruction is placed where
the next step takes it. -/

namespace Sys2Proof.Machine

/-- The states of spec/93_implementation_defined.md U5, which no run reaches and which have no step. -/
def State.excluded (s : State) : Bool :=
  !s.ret.isReturn
  || (s.phase = .padLen && s.pos.toNat < 56)
  || ((s.phase = .load || s.phase = .round || s.phase = .fold || s.phase = .done) && s.pos ≠ 0#6)
  || (s.phase ≠ .round && s.t ≠ 0#7)
  || s.err == decide (s.ecode = .none)

/-- A command word is transferred (R140): an illegal word raises ILLEGAL_COMMAND (check 1 of R124), a legal one is
executed. -/
def State.transfer (s : State) (w : CmdWord) : Host.Outcome State Fault Refusal :=
  match decodeCommand w with
  | .ok i => exec i s
  | .error _ => .next (s.raise .illegalCommand)

/-- The one micro-operation the sequencer word selects (R28, R49, R53). -/
def State.microStep (s : State) : Host.Outcome State Fault Refusal :=
  match s.uop with
  | none => .fault .noRoundSelected
  | some u =>
    match decodeMicro u with
    | .ok i => exec i s
    | .error _ => .next s

/-- The moves that remain when the core is busy: a wait passes, a command offered stays offered, because `cmd_ready`
is 0 (R140, R149). -/
def busyMoves : List HostMove → List HostMove
  | .wait :: rest => rest
  | moves => moves

/-- A step of a core in a state that has steps: in a quiescent phase the host's next command is transferred, and with
none the core holds its state (R139); in any other phase the enabled micro-operation executes (R28). -/
def State.proceed (s : State) : Host.Outcome State Fault Refusal :=
  if s.phase.quiescent then
    match s.host with
    | .command w :: rest => (s.setHost rest).transfer w
    | .wait :: rest => .next (s.setHost rest)
    | .reset :: rest => .next (s.setHost rest).resetEvent
    | [] => .next s
  else (s.setHost (busyMoves s.host)).microStep

/-- One step of the core. Reset overrides everything and may come at any moment (R144); a state of U5 has no other
step. -/
def State.sequencerStep (s : State) : Host.Outcome State Fault Refusal :=
  match s.host with
  | .reset :: rest => .next (s.setHost rest).resetEvent
  | _ => if s.excluded then .fault .unreachableState else s.proceed

/-- Part (3) of a transaction (R62): micro-operations until PHASE is quiescent, at most `fuel` of them. -/
def State.quiesce : Nat → State → Host.Outcome State Fault Refusal
  | 0, s => .next s
  | fuel + 1, s =>
    if s.phase.quiescent then .next s
    else
      match s.microStep with
      | .next s' => State.quiesce fuel s'
      | .fault r => .fault r
      | .refused r => .refused r

/-- The greatest number of micro-operations of one transaction: 237, of a FINAL with L mod 64 = 56 (R152). -/
def maxMicroOps : Nat := 237

/-- A command transaction as one step (R6, R62): admission and effect, then the run to quiescence. -/
def State.transaction (s : State) (w : CmdWord) : Host.Outcome State Fault Refusal :=
  match s.transfer w with
  | .next s' => State.quiesce maxMicroOps s'
  | .fault r => .fault r
  | .refused r => .refused r

/-- POS as the phase has it: 56 or more in PAD_LEN, 0 from LOAD to DONE (R36). -/
def posFor (p : Phase) (pos : BitVec 6) : BitVec 6 :=
  match p with
  | .padLen => if pos.toNat < 56 then 56 else pos
  | .load => 0
  | .round => 0
  | .fold => 0
  | .done => 0
  | .absorb => pos
  | .padTerm => pos
  | .padZero => pos

/-- The sequencer put in phase `p` with round counter `t`; what U5 excludes there (POS, RET, ERR) is brought to a value
that has steps and is otherwise left alone. -/
def State.enterPhase (s : State) (p : Phase) (t : BitVec 7) : State :=
  { s with
    phase := p, t := t, pos := posFor p s.pos, ret := if s.ret.isReturn then s.ret else .absorb,
    err := !decide (s.ecode = .none) }

/-- The host offers the command `w` as its next move to the core, which is put in ABSORB if it is not quiescent. -/
def State.placeCommand (s : State) (w : Nat) : State :=
  (s.enterPhase (if s.phase.quiescent then s.phase else .absorb) 0).setHost (.command (BitVec.ofNat 12 w) :: s.host)

/-- The sequencer stands in the phase of the sequencer word `w`, in ROUND at a round of its SEL, and the host makes no
move in the step. -/
def State.placeMicro (s : State) (w : Nat) : State :=
  let u : UopWord := BitVec.ofNat 5 w
  let p := Phase.ofCode (uopPhase u)
  let t : BitVec 7 :=
    if p = .round then if sel s.t = some (uopSel u) then s.t else BitVec.ofNat 7 (20 * (uopSel u).toNat) else 0
  (s.enterPhase p t).setHost (.wait :: s.host)

/-- Place the instruction whose bits spec/opcode_table.json numbers as `w` where the next step takes it: a host command
(more than 8 bits) at the command port, a micro-operation in the sequencer. Log entry 3. -/
def State.placeWord (s : State) (nbits w : Nat) : State := if nbits ≤ 8 then s.placeMicro w else s.placeCommand w

end Sys2Proof.Machine
end

