-- ==== Sys2Proof/Machine/Step.lean ====
section
/-! DEFINITION. One step of the machine, and an instruction placed where that step takes it. -/

namespace Sys2Proof.Machine

/-- One step: a command transferred, a micro-operation, a reset, or the state held
(spec/40_host_commands.md R62). -/
def step (s : State) : Host.Outcome State Fault Refusal := s.sequencerStep

/-- `s` with the instruction of bits `w` placed so that `step` runs it next. -/
def State.withFetchWord (s : State) (nbits w : Nat) : State := s.placeWord nbits w

end Sys2Proof.Machine
end

