-- ==== Sys2Proof/Laws/Decode.lean ====
section
/-! SUPPORT. The fields of a command word as numbers, and the word an opcode and a byte make. -/

namespace Sys2Proof

/-- An opcode before a byte, as a number. -/
theorem opcode_append_toNat (op : BitVec 4) (b : Byte) : (op ++ b : CmdWord).toNat = op.toNat * 256 + b.toNat := by
  rw [BitVec.toNat_append, ← Nat.shiftLeft_add_eq_or_of_lt b.isLt, Nat.shiftLeft_eq]

theorem cmdOp_toNat (w : CmdWord) : (cmdOp w).toNat = w.toNat / 256 := by
  have := w.isLt
  simp [cmdOp, BitVec.extractLsb'_toNat, Nat.shiftRight_eq_div_pow]
  omega

theorem cmdImm8_toNat (w : CmdWord) : (cmdImm8 w).toNat = w.toNat % 256 := by
  simp [cmdImm8, BitVec.extractLsb'_toNat]

/-- A command word is its opcode before its operand byte (R48). -/
theorem cmdOp_append_cmdImm8 (w : CmdWord) : (cmdOp w ++ cmdImm8 w : CmdWord) = w := by
  apply BitVec.eq_of_toNat_eq
  rw [opcode_append_toNat, cmdOp_toNat, cmdImm8_toNat]
  omega

@[simp] theorem cmdOp_append (op : BitVec 4) (b : Byte) : cmdOp (op ++ b) = op := by
  apply BitVec.eq_of_toNat_eq
  rw [cmdOp_toNat, opcode_append_toNat]
  have := b.isLt
  omega

@[simp] theorem cmdImm8_append (op : BitVec 4) (b : Byte) : cmdImm8 (op ++ b) = b := by
  apply BitVec.eq_of_toNat_eq
  rw [cmdImm8_toNat, opcode_append_toNat]
  have := b.isLt
  omega

end Sys2Proof
end

