-- ==== Sys2Proof/Machine/Algorithm.lean ====
section
/-! DEFINITION. The functions the rules define beside the machine, from a message to its digest: the padding
(spec/41_padder.md R73 to R75), the partition into blocks (spec/42_block_splitter.md R83), the schedule
(spec/43_message_schedule.md R90, R91), COMPRESS (spec/44_compression_round.md R109) and SHA1
(spec/45_digest_accumulator.md R118), with the step counts of spec/70_reset_and_hazards.md R152. -/

namespace Sys2Proof.Machine

/-- `Z(L) = (55 - L) mod 64`, the number of zero-fill bytes (R73). -/
def zeroFill (l : Nat) : Nat := ((55 - (l : Int)) % 64).toNat

/-- `P(L) = ((55 - L) mod 64) + 9`, the number of padding bytes (R73). -/
def padCount (l : Nat) : Nat := zeroFill l + 9

/-- `PADDED(L) = 64 · ceil((L + 9) / 64)` (R73). -/
def paddedLength (l : Nat) : Nat := 64 * ((l + 9 + 63) / 64)

/-- `NBLK(L) = floor((L + 8) / 64) + 1` (R73). -/
def blockCount (l : Nat) : Nat := (l + 8) / 64 + 1

/-- The trailer of a message of L bytes: `BYTE64(L · 8, j)` for j in 0..7 (R75). -/
def trailer (l : Nat) : List Byte := (List.range 8).map (byte64 (BitVec.ofNat 64 (l * 8)))

/-- `PADBYTES(L)` (R74). -/
def padBytes (l : Nat) : List Byte := 0x80#8 :: (List.replicate (zeroFill l) 0x00#8 ++ trailer l)

/-- The padded message `M ‖ PADBYTES(L)` (R74). -/
def padMessage (m : List Byte) : List Byte := m ++ padBytes m.length

/-- Block n of a padded message: the bytes `PM[64n .. 64n+63]` (R83). -/
def blockOf (pm : List Byte) (n : Nat) : List Byte := (pm.drop (64 * n)).take 64

/-- A block as sixteen big-endian words (R83). -/
def wordsOf (b : List Byte) : Vector Word 16 :=
  Vector.ofFn (fun i : Fin 16 =>
    be32 (b.getD (4 * i.val) 0) (b.getD (4 * i.val + 1) 0) (b.getD (4 * i.val + 2) 0) (b.getD (4 * i.val + 3) 0))

/-- The next word of the schedule, given how many come before it and those words, the latest first: a block word for
t below 16, else the recurrence of R90, in which `W[t-k]` is entry k - 1. -/
def nextScheduleWord (m : Vector Word 16) (t : Nat) (before : List Word) : Word :=
  if h : t < 16 then m[t]
  else rotl32 (before.getD 2 0 ^^^ before.getD 7 0 ^^^ before.getD 13 0 ^^^ before.getD 15 0) 1

/-- The first n words of the schedule of a block, the latest first. -/
def scheduleWords (m : Vector Word 16) : Nat → List Word
  | 0 => []
  | t + 1 =>
    let before := scheduleWords m t
    nextScheduleWord m t before :: before

/-- `W[t]` of a block, for every t (R90, R91). -/
def schedule (m : Vector Word 16) (t : Nat) : Word := nextScheduleWord m t (scheduleWords m t)

/-- The working registers of COMPRESS(h, M) after its first n rounds (R109). -/
def compressRounds (h : Accumulator) (m : Vector Word 16) : Nat → WorkingState
  | 0 => { a := h.h0, b := h.h1, c := h.h2, d := h.h3, e := h.h4 }
  | t + 1 =>
    let r := compressRounds h m t
    let s := BitVec.ofNat 2 (t / 20)
    roundWork r (fsel s r.b r.c r.d) (schedule m t) (klut s)

/-- `COMPRESS(h, M)` (R109). -/
def compress (h : Accumulator) (m : Vector Word 16) : Accumulator := h.add (compressRounds h m 80)

/-- The accumulator after folding the first n blocks of a padded message into IV, in order (R118). -/
def foldBlocks (pm : List Byte) : Nat → Accumulator
  | 0 => Accumulator.iv
  | n + 1 => compress (foldBlocks pm n) (wordsOf (blockOf pm n))

/-- The twenty bytes of a digest (R116). -/
def Accumulator.digestBytes (h : Accumulator) : List Byte := (List.range 20).map h.digestByte

/-- `SHA1(M)` for a message of at most 2^61 - 1 bytes (R118). -/
def sha1 (m : List Byte) : List Byte := (foldBlocks (padMessage m) (blockCount m.length)).digestBytes

/-- The events the compression of a block emits, 161 in this order (R138). -/
def blockEvents (h : Accumulator) (m : Vector Word 16) : List Event :=
  .block m :: (List.range 80).flatMap (fun t =>
    let r := compressRounds h m (t + 1)
    [.schedule (BitVec.ofNat 7 t) (schedule m t), .round (BitVec.ofNat 7 t) r.a r.b r.c r.d r.e])

/-- How many micro-operations a FINAL runs after L bytes (R152). -/
def finalMicroOps (l : Nat) : Nat := 1 + (zeroFill l + 1) + 8 + 82 * (if l % 64 ≤ 55 then 1 else 2)

end Sys2Proof.Machine
end

