-- ==== Sys2Proof/Machine/Assembler.lean ====
section
/-! DEFINITION. The textual form of a command stream (spec/30_encoding.md R61): one command per line, pseudo-instructions
with their expansions, comments from `;`. It stands outside the machine: it makes the words a host then sends. What R61
leaves open of the layout of a line (blanks, commas, the case of hexadecimal digits) is log entry 20. -/

namespace Sys2Proof.Machine

/-- A line of the assembler, before its operands are checked. -/
inductive AsmLine where
  | init
  | update (n : Nat)
  | final
  | rddig (n : Nat)
  | rdstat
  /-- `UPDATES "text"`. -/
  | updates (text : List Char)
  /-- `UPDATEX hh hh ...`. -/
  | updatex (bytes : List Nat)
  /-- `UPDATEN n, b`. -/
  | updaten (n b : Nat)
  /-- `RDDIGEST`. -/
  | rddigest
  /-- `HASH "text"`. -/
  | hash (text : List Char)
  /-- `.word w`. -/
  | word (w : Nat)
  deriving DecidableEq, Repr

/-- `UPDATE n` encodes `0x100 + n` for n in 0..255; any other n is an assembly error (R61). -/
def asmUpdate (n : Nat) : Option CmdWord := if n ≤ 255 then some (BitVec.ofNat 12 (0x100 + n)) else none

/-- `RDDIG n` encodes `0x300 + n` for n in 0..19; any other n is an assembly error (R61). -/
def asmRddig (n : Nat) : Option CmdWord := if n ≤ 19 then some (BitVec.ofNat 12 (0x300 + n)) else none

/-- One UPDATE per byte of the text's ASCII encoding, in order; a character that ASCII does not have is an error. -/
def asmText (text : List Char) : Option (List CmdWord) :=
  text.mapM (fun c => if c.toNat < 128 then asmUpdate c.toNat else none)

/-- `RDDIG 0` through `RDDIG 19` in ascending order (R61). -/
def asmDigest : Option (List CmdWord) := (List.range 20).mapM asmRddig

/-- The command words of a line; none is an assembly error (R61). -/
def asmWords : AsmLine → Option (List CmdWord)
  | .init => some [0x000#12]
  | .update n => (asmUpdate n).map (fun w => [w])
  | .final => some [0x200#12]
  | .rddig n => (asmRddig n).map (fun w => [w])
  | .rdstat => some [0x400#12]
  | .updates text => asmText text
  | .updatex bytes => bytes.mapM asmUpdate
  | .updaten n b => (asmUpdate b).map (List.replicate n)
  | .rddigest => asmDigest
  | .hash text =>
    match asmText text, asmDigest with
    | some t, some d => some (0x000#12 :: (t ++ 0x200#12 :: d))
    | _, _ => none
  | .word w => if w < 4096 then some [BitVec.ofNat 12 w] else none

/-- The value of a digit in base 10 or 16. -/
def digitValue (c : Char) : Option Nat :=
  let n := c.toNat
  if 48 ≤ n ∧ n ≤ 57 then some (n - 48)
  else if 65 ≤ n ∧ n ≤ 70 then some (n - 55)
  else if 97 ≤ n ∧ n ≤ 102 then some (n - 87)
  else none

/-- The digits of a number in a base, after the value `acc` of those already read. -/
def digitsValue (base : Nat) : Nat → List Char → Option Nat
  | acc, [] => some acc
  | acc, c :: cs =>
    match digitValue c with
    | some d => if d < base then digitsValue base (acc * base + d) cs else none
    | none => none

/-- An operand: a decimal number or a `0x` hexadecimal number (R61). -/
def asmNumber : List Char → Option Nat
  | '0' :: 'x' :: c :: cs => digitsValue 16 0 (c :: cs)
  | c :: cs => digitsValue 10 0 (c :: cs)
  | [] => none

/-- A byte of UPDATEX: two hexadecimal digits. -/
def asmHexByte : List Char → Option Nat
  | [a, b] => digitsValue 16 0 [a, b]
  | _ => none

/-- A blank or a comma between operands. -/
def isBlank (c : Char) : Bool := c = ' ' || c = '\t' || c = ','

/-- The double quote. -/
def quoteChar : Char := Char.ofNat 34

/-- The text before the comment. A `;` between quotes starts none. -/
def dropComment : Bool → List Char → List Char
  | _, [] => []
  | quoted, c :: cs =>
    if c = quoteChar then c :: dropComment (!quoted) cs
    else if c = ';' && !quoted then []
    else c :: dropComment quoted cs

/-- The words of a line, split at blanks; `word` holds the letters of the word being read, the last first. -/
def splitWords : List Char → List Char → List (List Char)
  | word, [] => if word = [] then [] else [word.reverse]
  | word, c :: cs =>
    if isBlank c then if word = [] then splitWords [] cs else word.reverse :: splitWords [] cs
    else splitWords (c :: word) cs

/-- The text between the first pair of quotes of a line that has only its mnemonic before them and nothing but blanks
after them. -/
def quotedText (line : List Char) : Option (List Char) :=
  let before := line.takeWhile (· ≠ quoteChar)
  let inside := (line.dropWhile (· ≠ quoteChar)).drop 1
  let after := inside.dropWhile (· ≠ quoteChar)
  if (splitWords [] before).length = 1 ∧ after ≠ [] ∧ (after.drop 1).all isBlank then some (inside.takeWhile (· ≠ quoteChar)) else none

/-- The letters of a mnemonic. -/
def asmName (s : String) (word : List Char) : Bool := word = s.toList

/-- A line of text: nothing, a blank or comment line, is `some none`; none is an assembly error (R61). R61 gives RDDIG one
number, so a range `RDDIG 0..19`, as spec/95_test_vectors.md P1 and P2 write it, is an assembly error here (DESIGN CHOICE,
log entry 20); RDDIGEST emits those words. -/
def parseLine (text : List Char) : Option (Option AsmLine) :=
  let line := dropComment false text
  match splitWords [] line with
  | [] => some none
  | name :: args =>
    if asmName "UPDATES" name then (quotedText line).map (fun t => some (.updates t))
    else if asmName "HASH" name then (quotedText line).map (fun t => some (.hash t))
    else if asmName "UPDATEX" name then (args.mapM asmHexByte).map (fun b => some (.updatex b))
    else
      match args.mapM asmNumber with
      | some [] =>
        if asmName "INIT" name then some (some .init)
        else if asmName "FINAL" name then some (some .final)
        else if asmName "RDSTAT" name then some (some .rdstat)
        else if asmName "RDDIGEST" name then some (some .rddigest)
        else none
      | some [n] =>
        if asmName "UPDATE" name then some (some (.update n))
        else if asmName "RDDIG" name then some (some (.rddig n))
        else if asmName ".word" name then some (some (.word n))
        else none
      | some [n, b] => if asmName "UPDATEN" name then some (some (.updaten n b)) else none
      | _ => none

/-- The words of a line of text. -/
def assembleLine (text : List Char) : Option (List CmdWord) :=
  match parseLine text with
  | some none => some []
  | some (some line) => asmWords line
  | none => none

/-- The words of a command stream, a line at a time (R61). -/
def assemble (lines : List (List Char)) : Option (List CmdWord) := (lines.mapM assembleLine).map List.flatten

end Sys2Proof.Machine
end

