-- ==== Sys2Proof/Safety.lean ====
section
/-! DEFINITION. The predicates claims are stated in: the invariants of spec/10_state.md R36, what stays the same in a
frame, the relation of two runs that differ only in scratch (spec/70_reset_and_hazards.md R143), and the result a
round has (spec/44_compression_round.md R103). -/

namespace Sys2Proof.Machine

/-- A block is being compressed: PHASE is LOAD, ROUND or FOLD. -/
def Phase.compressing (p : Phase) : Bool := p = .load || p = .round || p = .fold

/-- The invariants of R36: (a) to (f) and (h), in order. (g) holds by LEN's width, and (i) speaks of two states. -/
abbrev State.reachable (s : State) : Prop :=
  (s.phase ≠ .round → s.t = 0#7) ∧ s.t.toNat ≤ 79
  ∧ s.ret.isReturn = true
  ∧ (s.phase = .absorb → s.pos.toNat = s.len.toNat % 64)
  ∧ (s.phase = .done → s.pos = 0#6)
  ∧ (s.phase = .padLen → 56 ≤ s.pos.toNat)
  ∧ (s.phase.compressing = true → s.pos = 0#6)
  ∧ (s.err = false ↔ s.ecode = .none)

/-- The invariant every step keeps: R36, with what makes (c) inductive (a block closed by a message byte is resumed with
LEN a multiple of 64, log entry 17), and the buffer in canonical form. -/
abbrev State.inv (s : State) : Prop :=
  s.reachable
  ∧ (s.phase.compressing = true → s.ret = .absorb → s.len.toNat % 64 = 0)
  ∧ Memory.wf s.buf

/-- Every byte of the buffer the next LDBLK will read has been written, as far as the block has come (R42). -/
def State.blockWritten (s : State) : Prop :=
  ∀ a, a < (if s.phase.compressing then 64 else s.pos.toNat) → (s.buf.get? a).isSome = true

/-- The window relation of R22: in ROUND, `SR[i] = W[T + i]` of the block that stands in the buffer, and after the
eightieth round SR holds W[80..95]. -/
def State.windowHolds (s : State) : Prop :=
  (s.phase = .round → ∀ (i : Nat) (h : i < 16), s.sr[i] = schedule s.blockWords (s.t.toNat + i))
  ∧ (s.phase = .fold → ∀ (i : Nat) (h : i < 16), s.sr[i] = schedule s.blockWords (80 + i))

/-- In ROUND the working registers are those of COMPRESS(H, M) after T rounds, in FOLD those after eighty (R109). -/
def State.roundsHold (s : State) : Prop :=
  (s.phase = .round → s.work = compressRounds s.acc s.blockWords s.t.toNat)
  ∧ (s.phase = .fold → s.work = compressRounds s.acc s.blockWords 80)

/-- The host makes no move that a busy core would notice: it has none left, or it holds a command (R140). -/
def quietHost (moves : List HostMove) : Prop := moves = [] ∨ ∃ w rest, moves = .command w :: rest

/-- Every byte of the buffer reads in `t` as it reads in `s`. -/
def State.sameBuffer (s t : State) : Prop := ∀ a, t.bufByte a = s.bufByte a

/-- Every byte of the buffer but the one at address `at_` reads in `t` as it reads in `s`. -/
def State.sameBufferBut (s t : State) (at_ : Nat) : Prop := ∀ a, a ≠ at_ → t.bufByte a = s.bufByte a

/-- The scratch registers A to E and SR are the same. -/
def State.sameScratchRegisters (s t : State) : Prop := t.work = s.work ∧ t.sr = s.sr

/-- The sequencer's registers PHASE, T and RET are the same (R27). -/
def State.sameSequencer (s t : State) : Prop := t.phase = s.phase ∧ t.t = s.t ∧ t.ret = s.ret

/-- The status registers ERR and ECODE are the same. -/
def State.sameStatus (s t : State) : Prop := t.err = s.err ∧ t.ecode = s.ecode

/-- The message registers LEN and POS are the same. -/
def State.sameMessage (s t : State) : Prop := t.len = s.len ∧ t.pos = s.pos

/-- The host's moves and the count of resets are the same. -/
def State.sameInputs (s t : State) : Prop := t.host = s.host ∧ t.resets = s.resets

/-- What a round with function value `f` and constant `k` leaves (R103), the sum as a number and the rotation by 30 by
its bits. -/
def State.roundResult (s t : State) (f : Word) (k : Nat) : Prop :=
  t.work.a.toNat = ((rotl32 s.work.a 5).toNat + f.toNat + s.work.e.toNat + s.sr[0].toNat + k) % 2 ^ 32
  ∧ t.work.b = s.work.a
  ∧ (∀ i, i < 32 → t.work.c.getLsbD i = s.work.b.getLsbD ((i + 2) % 32))
  ∧ t.work.d = s.work.c
  ∧ t.work.e = s.work.d
  ∧ (∀ (i : Nat) (h : i < 15), t.sr[i] = s.sr[i + 1])
  ∧ t.sr[15] = rotl32 (s.sr[13] ^^^ s.sr[8] ^^^ s.sr[2] ^^^ s.sr[0]) 1
  ∧ t.trace = s.trace ++ [.schedule s.t s.sr[0], .round s.t t.work.a t.work.b t.work.c t.work.d t.work.e]
  ∧ t.t = (if s.t = 79#7 then 0#7 else s.t + 1#7)
  ∧ t.phase = (if s.t = 79#7 then .fold else .round)

/-- What a round leaves unchanged (R103). -/
def State.roundFrame (s t : State) : Prop :=
  t.acc = s.acc ∧ s.sameBuffer t ∧ s.sameMessage t ∧ t.ret = s.ret ∧ s.sameStatus t ∧ t.resp = s.resp
  ∧ s.sameInputs t

/-- The bytes of the buffer that a later step can read: all while LOAD is due, none in ROUND and FOLD, and those below
POS in the phases that write bytes. -/
def State.visibleBytes (s : State) : Nat :=
  match s.phase with
  | .load => 64
  | .round => 0
  | .fold => 0
  | .absorb => s.pos.toNat
  | .padTerm => s.pos.toNat
  | .padZero => s.pos.toNat
  | .padLen => s.pos.toNat
  | .done => s.pos.toNat

/-- Two states that a host and a trace consumer cannot tell apart, now or later (R143): the same registers of R142, the
same response, trace and moves, and the same scratch where a rule still reads it before writing it. -/
def State.sameButScratch (s t : State) : Prop :=
  t.acc = s.acc ∧ s.sameMessage t ∧ s.sameSequencer t ∧ s.sameStatus t ∧ t.resp = s.resp ∧ t.trace = s.trace
  ∧ t.host = s.host
  ∧ (∀ a, a < s.visibleBytes → t.bufByte a = s.bufByte a)
  ∧ (s.phase = .round → t.sr = s.sr)
  ∧ (s.phase = .round ∨ s.phase = .fold → t.work = s.work)

/-- While the core is busy ERR is 0, and LENGTH_OVERFLOW is the recorded cause only in ABSORB (R67, R123, R128). -/
def State.errorQuiet (s : State) : Prop :=
  (s.phase.quiescent = false → s.err = false) ∧ (s.ecode = .lengthOverflow → s.phase = .absorb)

/-- A move of a host that is sending a message: an UPDATE, or an RDSTAT between (R69). -/
def sendsMessage (move : HostMove) : Prop := move = .command 0x400#12 ∨ ∃ b : Byte, move = .command (0x1#4 ++ b)

/-- The message the host sends: the imm8 operands of its UPDATE commands, in issue order (R24). -/
def messageOf (moves : List HostMove) : List Byte :=
  moves.filterMap (fun move =>
    match move with
    | .command w => if cmdOp w = 1 then some (cmdImm8 w) else none
    | .wait => none
    | .reset => none)

/-- The byte the rules have a step of the core write to BUF[POS], if they have it write one (R23, R84): what a step that is
no reset does to the buffer is measured against it. -/
def State.byteToWrite (s : State) : Option Byte :=
  match s.phase with
  | .absorb =>
    match s.host with
    | .command w :: _ =>
      if cmdOp w = 1 ∧ s.admission (.update (cmdImm8 w)) = none then some (cmdImm8 w) else none
    | _ => none
  | .padTerm => some 0x80#8
  | .padZero => if s.pos = 56#6 then none else some 0x00#8
  | .padLen => some s.trailerByte
  | .load => none
  | .round => none
  | .fold => none
  | .done => none

/-- The bytes that n steps write to the buffer, in order (R80), each read back from the buffer after its step. -/
def bytesWritten : Nat → State → List Byte
  | 0, _ => []
  | n + 1, s =>
    match step s with
    | .next t =>
      match s.host with
      | .reset :: _ => bytesWritten n t
      | _ => (if s.byteToWrite.isSome then [t.bufByte s.pos.toNat] else []) ++ bytesWritten n t
    | .fault _ => []
    | .refused _ => []

/-- RND0 to RND3. -/
def isRound (i : Instr) : Prop := i = .rnd0 ∨ i = .rnd1 ∨ i = .rnd2 ∨ i = .rnd3

/-- The instructions that write a byte of the buffer (R23). -/
def writesByte (i : Instr) : Prop := (∃ b, i = .update b) ∨ i = .padt ∨ i = .padz ∨ i = .padl

end Sys2Proof.Machine
end

