-- ==== Sys2Proof/Laws/State.lean ====
section
/-! SUPPORT. One lemma per field per named update of State, each true by rfl and tagged simp, so that no proof unfolds
a record update. -/

namespace Sys2Proof.Machine

variable (s : State)

/-! `emit` -/

@[simp] theorem State.emit_acc (e : Event) : (s.emit e).acc = s.acc := rfl
@[simp] theorem State.emit_work (e : Event) : (s.emit e).work = s.work := rfl
@[simp] theorem State.emit_sr (e : Event) : (s.emit e).sr = s.sr := rfl
@[simp] theorem State.emit_buf (e : Event) : (s.emit e).buf = s.buf := rfl
@[simp] theorem State.emit_len (e : Event) : (s.emit e).len = s.len := rfl
@[simp] theorem State.emit_pos (e : Event) : (s.emit e).pos = s.pos := rfl
@[simp] theorem State.emit_phase (e : Event) : (s.emit e).phase = s.phase := rfl
@[simp] theorem State.emit_t (e : Event) : (s.emit e).t = s.t := rfl
@[simp] theorem State.emit_ret (e : Event) : (s.emit e).ret = s.ret := rfl
@[simp] theorem State.emit_err (e : Event) : (s.emit e).err = s.err := rfl
@[simp] theorem State.emit_ecode (e : Event) : (s.emit e).ecode = s.ecode := rfl
@[simp] theorem State.emit_resp (e : Event) : (s.emit e).resp = s.resp := rfl
@[simp] theorem State.emit_trace (e : Event) : (s.emit e).trace = s.trace ++ [e] := rfl
@[simp] theorem State.emit_host (e : Event) : (s.emit e).host = s.host := rfl
@[simp] theorem State.emit_resets (e : Event) : (s.emit e).resets = s.resets := rfl

/-! `respond` -/

@[simp] theorem State.respond_acc (r : RespWord) : (s.respond r).acc = s.acc := rfl
@[simp] theorem State.respond_work (r : RespWord) : (s.respond r).work = s.work := rfl
@[simp] theorem State.respond_sr (r : RespWord) : (s.respond r).sr = s.sr := rfl
@[simp] theorem State.respond_buf (r : RespWord) : (s.respond r).buf = s.buf := rfl
@[simp] theorem State.respond_len (r : RespWord) : (s.respond r).len = s.len := rfl
@[simp] theorem State.respond_pos (r : RespWord) : (s.respond r).pos = s.pos := rfl
@[simp] theorem State.respond_phase (r : RespWord) : (s.respond r).phase = s.phase := rfl
@[simp] theorem State.respond_t (r : RespWord) : (s.respond r).t = s.t := rfl
@[simp] theorem State.respond_ret (r : RespWord) : (s.respond r).ret = s.ret := rfl
@[simp] theorem State.respond_err (r : RespWord) : (s.respond r).err = s.err := rfl
@[simp] theorem State.respond_ecode (r : RespWord) : (s.respond r).ecode = s.ecode := rfl
@[simp] theorem State.respond_resp (r : RespWord) : (s.respond r).resp = some r := rfl
@[simp] theorem State.respond_trace (r : RespWord) : (s.respond r).trace = s.trace := rfl
@[simp] theorem State.respond_host (r : RespWord) : (s.respond r).host = s.host := rfl
@[simp] theorem State.respond_resets (r : RespWord) : (s.respond r).resets = s.resets := rfl

/-! `setHost` -/

@[simp] theorem State.setHost_acc (m : List HostMove) : (s.setHost m).acc = s.acc := rfl
@[simp] theorem State.setHost_work (m : List HostMove) : (s.setHost m).work = s.work := rfl
@[simp] theorem State.setHost_sr (m : List HostMove) : (s.setHost m).sr = s.sr := rfl
@[simp] theorem State.setHost_buf (m : List HostMove) : (s.setHost m).buf = s.buf := rfl
@[simp] theorem State.setHost_len (m : List HostMove) : (s.setHost m).len = s.len := rfl
@[simp] theorem State.setHost_pos (m : List HostMove) : (s.setHost m).pos = s.pos := rfl
@[simp] theorem State.setHost_phase (m : List HostMove) : (s.setHost m).phase = s.phase := rfl
@[simp] theorem State.setHost_t (m : List HostMove) : (s.setHost m).t = s.t := rfl
@[simp] theorem State.setHost_ret (m : List HostMove) : (s.setHost m).ret = s.ret := rfl
@[simp] theorem State.setHost_err (m : List HostMove) : (s.setHost m).err = s.err := rfl
@[simp] theorem State.setHost_ecode (m : List HostMove) : (s.setHost m).ecode = s.ecode := rfl
@[simp] theorem State.setHost_resp (m : List HostMove) : (s.setHost m).resp = s.resp := rfl
@[simp] theorem State.setHost_trace (m : List HostMove) : (s.setHost m).trace = s.trace := rfl
@[simp] theorem State.setHost_host (m : List HostMove) : (s.setHost m).host = m := rfl
@[simp] theorem State.setHost_resets (m : List HostMove) : (s.setHost m).resets = s.resets := rfl

/-! `writeBuf` -/

@[simp] theorem State.writeBuf_acc (b : Byte) : (s.writeBuf b).acc = s.acc := rfl
@[simp] theorem State.writeBuf_work (b : Byte) : (s.writeBuf b).work = s.work := rfl
@[simp] theorem State.writeBuf_sr (b : Byte) : (s.writeBuf b).sr = s.sr := rfl
@[simp] theorem State.writeBuf_buf (b : Byte) : (s.writeBuf b).buf = s.buf.put s.pos.toNat b := rfl
@[simp] theorem State.writeBuf_len (b : Byte) : (s.writeBuf b).len = s.len := rfl
@[simp] theorem State.writeBuf_pos (b : Byte) : (s.writeBuf b).pos = s.pos := rfl
@[simp] theorem State.writeBuf_phase (b : Byte) : (s.writeBuf b).phase = s.phase := rfl
@[simp] theorem State.writeBuf_t (b : Byte) : (s.writeBuf b).t = s.t := rfl
@[simp] theorem State.writeBuf_ret (b : Byte) : (s.writeBuf b).ret = s.ret := rfl
@[simp] theorem State.writeBuf_err (b : Byte) : (s.writeBuf b).err = s.err := rfl
@[simp] theorem State.writeBuf_ecode (b : Byte) : (s.writeBuf b).ecode = s.ecode := rfl
@[simp] theorem State.writeBuf_resp (b : Byte) : (s.writeBuf b).resp = s.resp := rfl
@[simp] theorem State.writeBuf_trace (b : Byte) : (s.writeBuf b).trace = s.trace := rfl
@[simp] theorem State.writeBuf_host (b : Byte) : (s.writeBuf b).host = s.host := rfl
@[simp] theorem State.writeBuf_resets (b : Byte) : (s.writeBuf b).resets = s.resets := rfl

/-! `closeBlock` -/

@[simp] theorem State.closeBlock_acc (p : Phase) : (s.closeBlock p).acc = s.acc := rfl
@[simp] theorem State.closeBlock_work (p : Phase) : (s.closeBlock p).work = s.work := rfl
@[simp] theorem State.closeBlock_sr (p : Phase) : (s.closeBlock p).sr = s.sr := rfl
@[simp] theorem State.closeBlock_buf (p : Phase) : (s.closeBlock p).buf = s.buf := rfl
@[simp] theorem State.closeBlock_len (p : Phase) : (s.closeBlock p).len = s.len := rfl
@[simp] theorem State.closeBlock_pos (p : Phase) : (s.closeBlock p).pos = 0#6 := rfl
@[simp] theorem State.closeBlock_phase (p : Phase) : (s.closeBlock p).phase = .load := rfl
@[simp] theorem State.closeBlock_t (p : Phase) : (s.closeBlock p).t = s.t := rfl
@[simp] theorem State.closeBlock_ret (p : Phase) : (s.closeBlock p).ret = p := rfl
@[simp] theorem State.closeBlock_err (p : Phase) : (s.closeBlock p).err = s.err := rfl
@[simp] theorem State.closeBlock_ecode (p : Phase) : (s.closeBlock p).ecode = s.ecode := rfl
@[simp] theorem State.closeBlock_resp (p : Phase) : (s.closeBlock p).resp = s.resp := rfl
@[simp] theorem State.closeBlock_trace (p : Phase) : (s.closeBlock p).trace = s.trace := rfl
@[simp] theorem State.closeBlock_host (p : Phase) : (s.closeBlock p).host = s.host := rfl
@[simp] theorem State.closeBlock_resets (p : Phase) : (s.closeBlock p).resets = s.resets := rfl

/-! `advance` -/

@[simp] theorem State.advance_acc (p : Phase) : (s.advance p).acc = s.acc := rfl
@[simp] theorem State.advance_work (p : Phase) : (s.advance p).work = s.work := rfl
@[simp] theorem State.advance_sr (p : Phase) : (s.advance p).sr = s.sr := rfl
@[simp] theorem State.advance_buf (p : Phase) : (s.advance p).buf = s.buf := rfl
@[simp] theorem State.advance_len (p : Phase) : (s.advance p).len = s.len := rfl
@[simp] theorem State.advance_pos (p : Phase) : (s.advance p).pos = s.pos + 1#6 := rfl
@[simp] theorem State.advance_phase (p : Phase) : (s.advance p).phase = p := rfl
@[simp] theorem State.advance_t (p : Phase) : (s.advance p).t = s.t := rfl
@[simp] theorem State.advance_ret (p : Phase) : (s.advance p).ret = s.ret := rfl
@[simp] theorem State.advance_err (p : Phase) : (s.advance p).err = s.err := rfl
@[simp] theorem State.advance_ecode (p : Phase) : (s.advance p).ecode = s.ecode := rfl
@[simp] theorem State.advance_resp (p : Phase) : (s.advance p).resp = s.resp := rfl
@[simp] theorem State.advance_trace (p : Phase) : (s.advance p).trace = s.trace := rfl
@[simp] theorem State.advance_host (p : Phase) : (s.advance p).host = s.host := rfl
@[simp] theorem State.advance_resets (p : Phase) : (s.advance p).resets = s.resets := rfl

/-! `initialise` -/

@[simp] theorem State.initialise_acc : (s.initialise).acc = Accumulator.iv := rfl
@[simp] theorem State.initialise_work : (s.initialise).work = s.work := rfl
@[simp] theorem State.initialise_sr : (s.initialise).sr = s.sr := rfl
@[simp] theorem State.initialise_buf : (s.initialise).buf = s.buf := rfl
@[simp] theorem State.initialise_len : (s.initialise).len = 0#61 := rfl
@[simp] theorem State.initialise_pos : (s.initialise).pos = 0#6 := rfl
@[simp] theorem State.initialise_phase : (s.initialise).phase = .absorb := rfl
@[simp] theorem State.initialise_t : (s.initialise).t = 0#7 := rfl
@[simp] theorem State.initialise_ret : (s.initialise).ret = .absorb := rfl
@[simp] theorem State.initialise_err : (s.initialise).err = false := rfl
@[simp] theorem State.initialise_ecode : (s.initialise).ecode = .none := rfl
@[simp] theorem State.initialise_resp : (s.initialise).resp = s.resp := rfl
@[simp] theorem State.initialise_trace : (s.initialise).trace = s.trace := rfl
@[simp] theorem State.initialise_host : (s.initialise).host = s.host := rfl
@[simp] theorem State.initialise_resets : (s.initialise).resets = s.resets := rfl

/-! `resetEvent` -/

@[simp] theorem State.resetEvent_acc : (s.resetEvent).acc = Accumulator.iv := rfl
@[simp] theorem State.resetEvent_work : (s.resetEvent).work = scratchWork (s.resets + 1) := rfl
@[simp] theorem State.resetEvent_sr : (s.resetEvent).sr = scratchSr (s.resets + 1) := rfl
@[simp] theorem State.resetEvent_buf : (s.resetEvent).buf = [] := rfl
@[simp] theorem State.resetEvent_len : (s.resetEvent).len = 0#61 := rfl
@[simp] theorem State.resetEvent_pos : (s.resetEvent).pos = 0#6 := rfl
@[simp] theorem State.resetEvent_phase : (s.resetEvent).phase = .absorb := rfl
@[simp] theorem State.resetEvent_t : (s.resetEvent).t = 0#7 := rfl
@[simp] theorem State.resetEvent_ret : (s.resetEvent).ret = .absorb := rfl
@[simp] theorem State.resetEvent_err : (s.resetEvent).err = false := rfl
@[simp] theorem State.resetEvent_ecode : (s.resetEvent).ecode = .none := rfl
@[simp] theorem State.resetEvent_resp : (s.resetEvent).resp = none := rfl
@[simp] theorem State.resetEvent_trace : (s.resetEvent).trace = s.trace := rfl
@[simp] theorem State.resetEvent_host : (s.resetEvent).host = s.host := rfl
@[simp] theorem State.resetEvent_resets : (s.resetEvent).resets = s.resets + 1 := rfl

/-! `loadBlock` -/

@[simp] theorem State.loadBlock_acc : (s.loadBlock).acc = s.acc := rfl
@[simp] theorem State.loadBlock_work : (s.loadBlock).work = ⟨s.acc.h0, s.acc.h1, s.acc.h2, s.acc.h3, s.acc.h4⟩ := rfl
@[simp] theorem State.loadBlock_sr : (s.loadBlock).sr = s.blockWords := rfl
@[simp] theorem State.loadBlock_buf : (s.loadBlock).buf = s.buf := rfl
@[simp] theorem State.loadBlock_len : (s.loadBlock).len = s.len := rfl
@[simp] theorem State.loadBlock_pos : (s.loadBlock).pos = s.pos := rfl
@[simp] theorem State.loadBlock_phase : (s.loadBlock).phase = .round := rfl
@[simp] theorem State.loadBlock_t : (s.loadBlock).t = 0#7 := rfl
@[simp] theorem State.loadBlock_ret : (s.loadBlock).ret = s.ret := rfl
@[simp] theorem State.loadBlock_err : (s.loadBlock).err = s.err := rfl
@[simp] theorem State.loadBlock_ecode : (s.loadBlock).ecode = s.ecode := rfl
@[simp] theorem State.loadBlock_resp : (s.loadBlock).resp = s.resp := rfl
@[simp] theorem State.loadBlock_trace : (s.loadBlock).trace = s.trace := rfl
@[simp] theorem State.loadBlock_host : (s.loadBlock).host = s.host := rfl
@[simp] theorem State.loadBlock_resets : (s.loadBlock).resets = s.resets := rfl

end Sys2Proof.Machine
end

