-- ==== Sys2Proof/Laws/Ops.lean ====
section
/-! SUPPORT. What each shared operation can do, said once: the buffer, PutByte, exception entry, admission, the guards
of commands and micro-operations, and the cases of a step. -/

namespace Sys2Proof.Machine

/-! ## The block buffer -/

theorem Memory.get?_put_same (m : Memory) (a : Nat) (b : Byte) : (m.put a b).get? a = some b := by
  induction m with
  | nil => simp [Memory.put, Memory.get?]
  | cons c m ih =>
    obtain ⟨k, v⟩ := c
    simp only [Memory.put]
    split
    · simp [Memory.get?]
    · split
      · simp [Memory.get?]
      · simp [Memory.get?, Ne.symm ‹¬ a = k›, ih]

theorem Memory.get?_put_other (m : Memory) {a a' : Nat} (b : Byte) (h : a' ≠ a) :
    (m.put a b).get? a' = m.get? a' := by
  induction m with
  | nil => simp [Memory.put, Memory.get?, h.symm]
  | cons c m ih =>
    obtain ⟨k, v⟩ := c
    simp only [Memory.put]
    split
    · simp [Memory.get?, h.symm]
    · split
      · rename_i heq
        subst heq
        simp [Memory.get?, h.symm]
      · simp [Memory.get?, ih]

theorem Memory.mem_put {m : Memory} {a : Nat} {b : Byte} {c : Host.Cell} (h : c ∈ m.put a b) :
    c = (a, b) ∨ c ∈ m := by
  induction m with
  | nil => simpa [Memory.put] using h
  | cons d m ih =>
    obtain ⟨k, v⟩ := d
    simp only [Memory.put] at h
    split at h
    · simpa using h
    · split at h
      · rcases List.mem_cons.1 h with h | h
        · exact .inl h
        · exact .inr (List.mem_cons_of_mem _ h)
      · rcases List.mem_cons.1 h with h | h
        · exact .inr (h ▸ List.mem_cons_self)
        · exact (ih h).imp_right (List.mem_cons_of_mem _)

/-- Writing a byte inside the buffer space keeps the canonical form. -/
theorem Memory.wf_put {m : Memory} {a : Nat} (b : Byte) (ha : a < 64) (h : m.wf) : (m.put a b).wf := by
  refine ⟨?_, fun c hc => (Memory.mem_put hc).elim (fun e => e ▸ ha) (h.2 c)⟩
  have hp := h.1
  clear h
  induction m with
  | nil => simp [Memory.put]
  | cons d m ih =>
    obtain ⟨k, v⟩ := d
    obtain ⟨hk, hm⟩ := List.pairwise_cons.1 hp
    simp only [Memory.put]
    split
    · rename_i hlt
      refine List.pairwise_cons.2 ⟨fun c hc => ?_, hp⟩
      rcases List.mem_cons.1 hc with rfl | hc
      · exact hlt
      · exact Nat.lt_trans hlt (hk c hc)
    · split
      · rename_i heq
        exact List.pairwise_cons.2 ⟨fun c hc => heq ▸ hk c hc, hm⟩
      · rename_i hlt hne
        refine List.pairwise_cons.2 ⟨fun c hc => ?_, ih hm⟩
        rcases Memory.mem_put hc with rfl | hc
        · exact Nat.lt_of_le_of_ne (Nat.le_of_not_lt hlt) (Ne.symm hne)
        · exact hk c hc

/-- The reset state's memory is in canonical form. -/
theorem State.reset_buf_wf : State.reset.buf.wf := by decide

/-- Reading the buffer depends on its contents and the count of resets alone. -/
theorem State.bufByte_congr {s t : State} (hb : t.buf = s.buf) (hr : t.resets = s.resets) : s.sameBuffer t := by
  intro a
  simp [State.bufByte, hb, hr]

theorem State.blockWords_congr {s t : State} (h : ∀ a, a < 64 → t.bufByte a = s.bufByte a) :
    t.blockWords = s.blockWords := by
  simp only [State.blockWords]
  congr 1
  funext i
  have := i.isLt
  simp only [State.blockWord]
  rw [h _ (by omega), h _ (by omega), h _ (by omega), h _ (by omega)]

/-! ## PutByte (R84) -/

section putByte
variable (s : State) (b : Byte) (cont ret : Phase)

@[simp] theorem State.putByte_acc : (s.putByte b cont ret).acc = s.acc := by unfold State.putByte; split <;> rfl
@[simp] theorem State.putByte_work : (s.putByte b cont ret).work = s.work := by unfold State.putByte; split <;> rfl
@[simp] theorem State.putByte_sr : (s.putByte b cont ret).sr = s.sr := by unfold State.putByte; split <;> rfl
@[simp] theorem State.putByte_buf : (s.putByte b cont ret).buf = s.buf.put s.pos.toNat b := by
  unfold State.putByte; split <;> rfl
@[simp] theorem State.putByte_len : (s.putByte b cont ret).len = s.len := by unfold State.putByte; split <;> rfl
@[simp] theorem State.putByte_t : (s.putByte b cont ret).t = s.t := by unfold State.putByte; split <;> rfl
@[simp] theorem State.putByte_err : (s.putByte b cont ret).err = s.err := by unfold State.putByte; split <;> rfl
@[simp] theorem State.putByte_ecode : (s.putByte b cont ret).ecode = s.ecode := by unfold State.putByte; split <;> rfl
@[simp] theorem State.putByte_resp : (s.putByte b cont ret).resp = s.resp := by unfold State.putByte; split <;> rfl
@[simp] theorem State.putByte_trace : (s.putByte b cont ret).trace = s.trace := by unfold State.putByte; split <;> rfl
@[simp] theorem State.putByte_host : (s.putByte b cont ret).host = s.host := by unfold State.putByte; split <;> rfl
@[simp] theorem State.putByte_resets : (s.putByte b cont ret).resets = s.resets := by
  unfold State.putByte; split <;> rfl

/-- POS steps by one and wraps from 63 to 0 (R26, R84). -/
@[simp] theorem State.putByte_pos : (s.putByte b cont ret).pos = s.pos + 1#6 := by
  unfold State.putByte
  split
  · rename_i h
    simp [h]
  · rfl

@[simp] theorem State.putByte_phase :
    (s.putByte b cont ret).phase = if s.pos = 63#6 then .load else cont := by
  unfold State.putByte; split <;> rfl

@[simp] theorem State.putByte_ret : (s.putByte b cont ret).ret = if s.pos = 63#6 then ret else s.ret := by
  unfold State.putByte; split <;> rfl

/-- After PutByte the byte at the old POS reads as the byte written, every other byte as before. -/
theorem State.bufByte_putByte (a : Nat) :
    (s.putByte b cont ret).bufByte a = if a = s.pos.toNat then b else s.bufByte a := by
  simp only [State.bufByte, State.putByte_buf, State.putByte_resets]
  split
  · rename_i h
    subst h
    simp [Memory.get?_put_same]
  · rename_i h
    rw [Memory.get?_put_other _ _ h]

end putByte

/-! ## Exception entry (R125) -/

section raising
variable (s : State) (c : Cause)

@[simp] theorem State.raise_acc : (s.raise c).acc = s.acc := by unfold State.raise; split <;> rfl
@[simp] theorem State.raise_work : (s.raise c).work = s.work := by unfold State.raise; split <;> rfl
@[simp] theorem State.raise_sr : (s.raise c).sr = s.sr := by unfold State.raise; split <;> rfl
@[simp] theorem State.raise_buf : (s.raise c).buf = s.buf := by unfold State.raise; split <;> rfl
@[simp] theorem State.raise_len : (s.raise c).len = s.len := by unfold State.raise; split <;> rfl
@[simp] theorem State.raise_pos : (s.raise c).pos = s.pos := by unfold State.raise; split <;> rfl
@[simp] theorem State.raise_phase : (s.raise c).phase = s.phase := by unfold State.raise; split <;> rfl
@[simp] theorem State.raise_t : (s.raise c).t = s.t := by unfold State.raise; split <;> rfl
@[simp] theorem State.raise_ret : (s.raise c).ret = s.ret := by unfold State.raise; split <;> rfl
@[simp] theorem State.raise_trace : (s.raise c).trace = s.trace := by unfold State.raise; split <;> rfl
@[simp] theorem State.raise_host : (s.raise c).host = s.host := by unfold State.raise; split <;> rfl
@[simp] theorem State.raise_resets : (s.raise c).resets = s.resets := by unfold State.raise; split <;> rfl

@[simp] theorem State.raise_resp : (s.raise c).resp = some respError := by unfold State.raise; split <;> rfl

@[simp] theorem State.raise_err : (s.raise c).err = true := by
  unfold State.raise
  split
  · assumption
  · rfl

@[simp] theorem State.raise_ecode : (s.raise c).ecode = if s.err then s.ecode else c := by
  unfold State.raise; split <;> rfl

end raising

/-! ## Commands and micro-operations -/

/-- If a command answers a next state, the core was quiescent, and the command was refused with its exception or had
its effect (R62). -/
theorem State.command_cases {s t : State} {i : Instr} {effect : State} (h : s.command i effect = .next t) :
    s.phase.quiescent = true ∧
      ((∃ c, s.admission i = some c ∧ t = s.raise c) ∨ (s.admission i = none ∧ t = effect)) := by
  unfold State.command at h
  split at h
  · rename_i hq
    refine ⟨hq, ?_⟩
    cases hi : s.admission i with
    | some c => rw [hi] at h; injection h with h; exact .inl ⟨c, rfl, h.symm⟩
    | none => rw [hi] at h; injection h with h; exact .inr ⟨rfl, h.symm⟩
  · cases h

/-- A command that is admitted has its effect. -/
theorem State.command_admitted {s : State} {i : Instr} (effect : State) (hq : s.phase.quiescent = true)
    (ha : s.admission i = none) : s.command i effect = .next effect := by
  simp [State.command, hq, ha]

/-- A command that fails a check raises that check's exception. -/
theorem State.command_raises {s : State} {i : Instr} {c : Cause} (effect : State) (hq : s.phase.quiescent = true)
    (ha : s.admission i = some c) : s.command i effect = .next (s.raise c) := by
  simp [State.command, hq, ha]

/-- A command never faults. -/
theorem State.command_not_fault (s : State) (i : Instr) (effect : State) (r : Fault) :
    s.command i effect ≠ .fault r := by
  unfold State.command
  split
  · cases s.admission i <;> simp
  · simp

/-- If a micro-operation answers a next state, its phase selected it. -/
theorem State.micro_cases {s t : State} {p : Phase} {e : Host.Outcome State Fault Refusal}
    (h : s.micro p e = .next t) : s.phase = p ∧ e = .next t := by
  unfold State.micro at h
  split at h
  · exact ⟨‹_›, h⟩
  · cases h

/-- In its phase a micro-operation is its effect. -/
theorem State.micro_selected {s : State} {p : Phase} (e : Host.Outcome State Fault Refusal) (h : s.phase = p) :
    s.micro p e = e := by
  simp [State.micro, h]

/-- If a round answers a next state, PHASE and SEL selected it. -/
theorem State.roundMicro_cases {s t effect : State} {k : BitVec 2} (h : s.roundMicro k effect = .next t) :
    s.phase = .round ∧ sel s.t = some k ∧ t = effect := by
  obtain ⟨hp, he⟩ := State.micro_cases h
  cases hs : sel s.t with
  | none => rw [hs] at he; cases he
  | some k' =>
    rw [hs] at he
    dsimp only at he
    split at he
    · rename_i hk
      injection he with he
      exact ⟨hp, congrArg some hk, he.symm⟩
    · cases he

/-- A round that PHASE and SEL select has its effect. -/
theorem State.roundMicro_selected {s : State} {k : BitVec 2} (effect : State) (hp : s.phase = .round)
    (hs : sel s.t = some k) : s.roundMicro k effect = .next effect := by
  simp [State.roundMicro, State.micro, hp, hs]

/-- SEL is T div 20 for T up to 79 (R29, R100). -/
theorem sel_eq_div {t : BitVec 7} (h : t.toNat ≤ 79) : sel t = some (BitVec.ofNat 2 (t.toNat / 20)) := by
  unfold sel
  split
  · rw [show t.toNat / 20 = 0 by omega]; rfl
  · split
    · rw [show t.toNat / 20 = 1 by omega]; rfl
    · split
      · rw [show t.toNat / 20 = 2 by omega]; rfl
      · rw [show t.toNat / 20 = 3 by omega]; rfl

/-! ## The step -/

/-- What a micro-operation step is in each phase (R28, R49, R53). -/
theorem State.microStep_padTerm {s : State} (h : s.phase = .padTerm) : s.microStep = exec .padt s := by
  simp [State.microStep, State.uop, h, Phase.code, decodeMicro, uopPhase]

theorem State.microStep_padZero {s : State} (h : s.phase = .padZero) : s.microStep = exec .padz s := by
  simp [State.microStep, State.uop, h, Phase.code, decodeMicro, uopPhase]

theorem State.microStep_padLen {s : State} (h : s.phase = .padLen) : s.microStep = exec .padl s := by
  simp [State.microStep, State.uop, h, Phase.code, decodeMicro, uopPhase]

theorem State.microStep_load {s : State} (h : s.phase = .load) : s.microStep = exec .ldblk s := by
  simp [State.microStep, State.uop, h, Phase.code, decodeMicro, uopPhase]

theorem State.microStep_fold {s : State} (h : s.phase = .fold) : s.microStep = exec .fold s := by
  simp [State.microStep, State.uop, h, Phase.code, decodeMicro, uopPhase]

/-- In ROUND with T up to 79, whichever round SEL selects is ROUNDSTEP with that SEL's function and constant (R103). -/
theorem State.microStep_round {s : State} (h : s.phase = .round) (ht : s.t.toNat ≤ 79) :
    s.microStep = .next (s.roundStep (fsel (BitVec.ofNat 2 (s.t.toNat / 20)) s.work.b s.work.c s.work.d)
      (klut (BitVec.ofNat 2 (s.t.toNat / 20)))) := by
  have hs := sel_eq_div ht
  have hk : s.t.toNat / 20 = 0 ∨ s.t.toNat / 20 = 1 ∨ s.t.toNat / 20 = 2 ∨ s.t.toNat / 20 = 3 := by omega
  rcases hk with hk | hk | hk | hk <;> rw [hk] at hs ⊢ <;>
    simp [State.microStep, State.uop, h, hs, Phase.code, decodeMicro, uopPhase, uopSel, exec, execRnd0, execRnd1,
      execRnd2, execRnd3, State.roundMicro, State.micro]

/-- In ROUND with T above 79 no round is selected (U6). -/
theorem State.microStep_no_round {s : State} (h : s.phase = .round) (ht : 79 < s.t.toNat) :
    s.microStep = .fault .noRoundSelected := by
  have hs : sel s.t = none := by
    unfold sel
    split_ifs <;> first | omega | rfl
  simp [State.microStep, State.uop, h, hs]

/-- What one step can be: a reset, a command transferred, a move passed or none made, or a micro-operation. -/
theorem step_cases {s t : State} (h : step s = .next t) :
    (∃ rest, s.host = .reset :: rest ∧ t = (s.setHost rest).resetEvent)
    ∨ (s.excluded = false ∧ s.phase.quiescent = true ∧
        ((∃ w rest, s.host = .command w :: rest ∧ (s.setHost rest).transfer w = .next t)
          ∨ (∃ rest, s.host = .wait :: rest ∧ t = s.setHost rest)
          ∨ (s.host = [] ∧ t = s)))
    ∨ (s.excluded = false ∧ s.phase.quiescent = false ∧ (∀ rest, s.host ≠ .reset :: rest)
        ∧ (s.setHost (busyMoves s.host)).microStep = .next t) := by
  unfold step State.sequencerStep at h
  split at h
  · rename_i rest hh
    injection h with h
    exact .inl ⟨rest, hh, h.symm⟩
  · rename_i hn
    right
    split at h
    · cases h
    · rename_i he
      have he : s.excluded = false := by simpa using he
      unfold State.proceed at h
      split at h
      · rename_i hq
        left
        refine ⟨he, hq, ?_⟩
        split at h
        · rename_i w rest hh; exact .inl ⟨w, rest, hh, h⟩
        · rename_i rest hh; injection h with h; exact .inr (.inl ⟨rest, hh, h.symm⟩)
        · rename_i rest hh; exact absurd hh (hn rest)
        · rename_i hh; injection h with h; exact .inr (.inr ⟨hh, h.symm⟩)
      · rename_i hq
        exact .inr ⟨he, by simpa using hq, hn, h⟩

/-- A transferred word is an instruction executed, or an illegal word's exception (R124, check 1). -/
theorem State.transfer_cases {s t : State} {w : CmdWord} (h : s.transfer w = .next t) :
    (∃ i, decodeCommand w = .ok i ∧ exec i s = .next t)
    ∨ ((∃ e, decodeCommand w = .error e) ∧ t = s.raise .illegalCommand) := by
  unfold State.transfer at h
  split at h
  · rename_i i hi; exact .inl ⟨i, hi, h⟩
  · rename_i e he; injection h with h; exact .inr ⟨⟨e, he⟩, h.symm⟩

end Sys2Proof.Machine
end

