-- ==== Sys2Proof/Laws/PerInstr.lean ====
section
/-! SUPPORT. Statements made of each instruction as syntax, one lemma per constructor. TableRow: the words of a
well-formed instruction match the row of the opcode table that is its own (spec/30_encoding.md R52, R53). -/

/-- The word of a well-formed instruction, masked by its row's mask, is its row's match (R52: "a word `w` is the
command when `w & mask = match` and the operand constraint holds"). -/
def Sys2Proof.Laws.TableRow.Statement (i : Sys2Proof.Instr) : Prop :=
  i.wellFormed = true →
    (Sys2Proof.encode i).toNat &&& (Sys2Proof.tableRow i).2 = (Sys2Proof.tableRow i).1

namespace Sys2Proof.Laws.TableRow

/-- A 4-bit opcode before an operand byte is all that the mask 0xF00 leaves. -/
theorem opcode_byte (op : BitVec 4) (b : Byte) : (op ++ b).toNat &&& 0xF00 = op.toNat * 256 := by
  have h : ((op ++ b : BitVec 12) &&& 0xF00#12).toNat = ((op ++ 0#8 : BitVec 12)).toNat := by
    congr 1
    ext i hi
    simp only [BitVec.getElem_and, BitVec.getElem_append]
    have : i = 0 ∨ i = 1 ∨ i = 2 ∨ i = 3 ∨ i = 4 ∨ i = 5 ∨ i = 6 ∨ i = 7 ∨ i = 8 ∨ i = 9 ∨ i = 10 ∨ i = 11 := by
      omega
    rcases this with rfl | rfl | rfl | rfl | rfl | rfl | rfl | rfl | rfl | rfl | rfl | rfl <;> simp
  rw [BitVec.toNat_and] at h
  refine h.trans ?_
  rw [BitVec.toNat_append]
  simp [Nat.shiftLeft_eq]

theorem init : Statement .init := fun _ => rfl
theorem update (imm8 : Byte) : Statement (.update imm8) := fun _ => opcode_byte 1 imm8
theorem final : Statement .final := fun _ => rfl
theorem rddig (imm8 : Byte) : Statement (.rddig imm8) := fun _ => opcode_byte 3 imm8
theorem rdstat : Statement .rdstat := fun _ => rfl
theorem padt : Statement .padt := fun _ => rfl
theorem padz : Statement .padz := fun _ => rfl
theorem padl : Statement .padl := fun _ => rfl
theorem ldblk : Statement .ldblk := fun _ => rfl
theorem rnd0 : Statement .rnd0 := fun _ => rfl
theorem rnd1 : Statement .rnd1 := fun _ => rfl
theorem rnd2 : Statement .rnd2 := fun _ => rfl
theorem rnd3 : Statement .rnd3 := fun _ => rfl
theorem fold : Statement .fold := fun _ => rfl

end Sys2Proof.Laws.TableRow
end

