-- ==== Sys2Proof/Certificates/Slice0/Obligations.lean ====
section
/-! DEFINITION. The statements for the provers. Each docstring names the rules of spec/ it formalises. `exec` is one
instruction; `step` is one step of the machine; `Host.Core.run Sys2Proof.core n` is n steps. -/

open Sys2Proof Sys2Proof.Machine

/-! ## Encoding -/

/-- Words of the tables of R52 and R53 and their decodings. -/
def Obligations.DecodesTableWords : Prop :=
  decodeCommand 0b000000000000#12 = .ok .init
  ∧ decodeCommand 0b000101100001#12 = .ok (.update 0x61)
  ∧ decodeCommand 0b000111111111#12 = .ok (.update 0xFF)
  ∧ decodeCommand 0b001000000000#12 = .ok .final
  ∧ decodeCommand 0b001100010011#12 = .ok (.rddig 19)
  ∧ decodeCommand 0b010000000000#12 = .ok .rdstat
  ∧ decodeMicro 0b00100#5 = .ok .padt
  ∧ decodeMicro 0b01011#5 = .ok .padz
  ∧ decodeMicro 0b01100#5 = .ok .padl
  ∧ decodeMicro 0b10000#5 = .ok .ldblk
  ∧ decodeMicro 0b10100#5 = .ok .rnd0
  ∧ decodeMicro 0b10101#5 = .ok .rnd1
  ∧ decodeMicro 0b10110#5 = .ok .rnd2
  ∧ decodeMicro 0b10111#5 = .ok .rnd3
  ∧ decodeMicro 0b11000#5 = .ok .fold
  ∧ decodeMicro 0b11100#5 = .error .quiescentPhase

/-- Decoding the code of any well-formed instruction gives the instruction back, with its operand. -/
def Obligations.DecodeOfEncode : Prop := ∀ i : Instr, i.wellFormed = true → decode (encode i) = .ok i

/-- A legal command word is the code of the instruction it decodes to, which is well formed: no two words are one
command (R54). -/
def Obligations.EncodeOfDecodedCommand : Prop :=
  ∀ (w : CmdWord) (i : Instr), decodeCommand w = .ok i →
    encode i = .command w ∧ i.wellFormed = true ∧ i.isCommand = true

/-- Which of the 4096 words are legal, which rule rejects each other word, and how many are legal
(R52, R54, R56, R57, R58). -/
def Obligations.LegalCommandWords : Prop :=
  (∀ w : CmdWord,
    ((∃ i, decodeCommand w = .ok i) ↔
      w.toNat = 0x000 ∨ (0x100 ≤ w.toNat ∧ w.toNat ≤ 0x1FF) ∨ w.toNat = 0x200
        ∨ (0x300 ≤ w.toNat ∧ w.toNat ≤ 0x313) ∨ w.toNat = 0x400)
    ∧ (decodeCommand w = .error .reservedOpcode ↔ 5 ≤ w.toNat / 256)
    ∧ (decodeCommand w = .error .nonzeroLowByte ↔
        (w.toNat / 256 = 0 ∨ w.toNat / 256 = 2 ∨ w.toNat / 256 = 4) ∧ w.toNat % 256 ≠ 0)
    ∧ (decodeCommand w = .error .digestIndex ↔ w.toNat / 256 = 3 ∧ 20 ≤ w.toNat % 256))
  ∧ (List.range 4096).countP (fun n => (decodeTableWord 12 n).isSome) = 279

/-- A sequencer word selects the micro-operation whose row of R53 it matches, and no other. -/
def Obligations.SequencerWordSelects : Prop :=
  ∀ (u : UopWord) (i : Instr), decodeMicro u = .ok i ↔
    i.isCommand = false ∧ u.toNat &&& (tableRow i).2 = (tableRow i).1

/-! ## The step -/

/-- When the core is quiescent and the host's next move is a legal command, a step is that command executed, the move
taken (R62, R140). -/
def Obligations.StepRunsTheCommand : Prop :=
  ∀ (s : State) (w : CmdWord) (rest : List HostMove) (i : Instr), s.excluded = false → s.phase.quiescent = true →
    s.host = .command w :: rest → decodeCommand w = .ok i → step s = exec i (s.setHost rest)

/-- When the core is not quiescent, a step is the micro-operation the sequencer word selects, whatever the host offers;
a wait of the host passes (R28, R49, R53). -/
def Obligations.StepRunsTheMicroOperation : Prop :=
  ∀ (s : State) (u : UopWord) (i : Instr), s.excluded = false → s.phase.quiescent = false →
    (∀ rest, s.host ≠ .reset :: rest) → s.uop = some u → decodeMicro u = .ok i →
    step s = exec i (s.setHost (busyMoves s.host))

/-- Between transactions the core holds its state (R139). -/
def Obligations.StepHoldsTheState : Prop :=
  ∀ s : State, s.excluded = false → s.phase.quiescent = true →
    (s.host = [] → step s = .next s) ∧ (∀ rest, s.host = .wait :: rest → step s = .next (s.setHost rest))

/-- An instruction placed by `withFetchWord` in any state is the one the next step executes. -/
def Obligations.PlacedInstructionRuns : Prop :=
  ∀ (s : State) (nbits w : Nat) (i : Instr), decodeTableWord nbits w = some i →
    step (s.withFetchWord nbits w) = exec i ((s.withFetchWord nbits w).setHost s.host)

/-- A word that is not one of the 279 legal words raises ILLEGAL_COMMAND whatever the phase and ERR, and changes nothing
but ERR, ECODE and the response (R56, R57, R58, R121). -/
def Obligations.IllegalWordRaises : Prop :=
  ∀ (s : State) (w : CmdWord) (rest : List HostMove), s.excluded = false → s.phase.quiescent = true →
    s.host = .command w :: rest →
    (5 ≤ w.toNat / 256 ∨ ((w.toNat / 256 = 0 ∨ w.toNat / 256 = 2 ∨ w.toNat / 256 = 4) ∧ w.toNat % 256 ≠ 0)
      ∨ (w.toNat / 256 = 3 ∧ 20 ≤ w.toNat % 256)) →
    ∃ t, step s = .next t ∧ t.err = true ∧ t.ecode = (if s.err then s.ecode else .illegalCommand)
      ∧ t.resp = some 0x100#9 ∧ t.host = rest
      ∧ t = { s with err := t.err, ecode := t.ecode, resp := t.resp, host := t.host }

/-- A command offered while the core is busy is not transferred, and executing one then has no meaning
(R140, R149, U7). -/
def Obligations.BusyCommandWaits : Prop :=
  (∀ (s t : State) (w : CmdWord) (rest : List HostMove), s.phase.quiescent = false →
    s.host = .command w :: rest → step s = .next t → t.host = s.host)
  ∧ (∀ (s : State) (i : Instr), s.phase.quiescent = false → i.isCommand = true →
      exec i s = .refused .commandWhileBusy)

/-- The states of U5 and U6, which no run reaches, have no step but reset; FOLD does not go to a phase that RET never
takes (R30). -/
def Obligations.UnreachableStatesAreStuck : Prop :=
  (∀ s : State, s.excluded = true → (∀ rest, s.host ≠ .reset :: rest) → step s = .fault .unreachableState)
  ∧ (∀ s : State, s.excluded = false → (∀ rest, s.host ≠ .reset :: rest) → s.phase = .round → 80 ≤ s.t.toNat →
      step s = .fault .noRoundSelected)
  ∧ (∀ s : State, s.phase = .fold → s.ret.isReturn = false → exec .fold s = .fault .unreachableState)

/-! ## Reset and invariants -/

/-- The registers and views after power-on reset that R142 names. -/
def Obligations.ResetValues : Prop :=
  State.reset.acc.h0 = 0x67452301 ∧ State.reset.acc.h1 = 0xEFCDAB89 ∧ State.reset.acc.h2 = 0x98BADCFE
  ∧ State.reset.acc.h3 = 0x10325476 ∧ State.reset.acc.h4 = 0xC3D2E1F0
  ∧ State.reset.len = 0#61 ∧ State.reset.pos = 0#6 ∧ State.reset.phase.code = 0 ∧ State.reset.t = 0#7
  ∧ State.reset.ret.code = 0 ∧ State.reset.err = false ∧ State.reset.ecode.code = 0
  ∧ State.reset.status = 0x00 ∧ State.reset.dv = false ∧ State.reset.cmdReady = true

/-- Reset at any moment, in any state, whatever was in progress: the registers of R142, no response, the trace stream
kept (R142, R144, R145). That a state of U5 or U6, which the spec calls stuck, has this step too is the model's deduction
(log entries 8 and 23), and that no response stands and the trace is kept in the state is log entries 7 and 11. -/
def Obligations.ResetAtAnyMoment : Prop :=
  ∀ (s : State) (rest : List HostMove), s.host = .reset :: rest →
    ∃ t, step s = .next t
      ∧ t.acc.h0 = 0x67452301 ∧ t.acc.h1 = 0xEFCDAB89 ∧ t.acc.h2 = 0x98BADCFE ∧ t.acc.h3 = 0x10325476
      ∧ t.acc.h4 = 0xC3D2E1F0
      ∧ t.len = 0#61 ∧ t.pos = 0#6 ∧ t.phase = .absorb ∧ t.t = 0#7 ∧ t.ret = .absorb ∧ t.err = false ∧ t.ecode = .none
      ∧ t.status = 0x00 ∧ t.dv = false ∧ t.cmdReady = true ∧ t.respValid = false
      ∧ t.trace = s.trace ∧ t.host = rest

/-- The invariants hold after reset (R36, R42). -/
def Obligations.InvariantsAtReset : Prop :=
  State.reset.inv ∧ State.reset.blockWritten ∧ State.reset.windowHolds ∧ State.reset.roundsHold
  ∧ State.reset.errorQuiet

/-- Every step keeps the invariants of R36, and an exception is raised only in a quiescent phase (R36 (i)). -/
def Obligations.StepKeepsInvariant : Prop :=
  ∀ s t : State, s.inv → step s = .next t →
    t.inv ∧ (t.err = true → s.err = false → s.phase.quiescent = true)

/-- From a state of the invariant the machine never stops: every step answers a next state (R54, R128). -/
def Obligations.StepNeverStops : Prop := ∀ s : State, s.inv → ∃ t, step s = .next t

/-- No byte is read before it is written: every step keeps that the bytes of the current block below POS, and all 64
from LOAD to FOLD, have been written since the last reset (R42, R143). -/
def Obligations.NoUnwrittenByteIsRead : Prop :=
  ∀ s t : State, s.inv → s.blockWritten → step s = .next t → t.blockWritten

/-! ## The host commands -/

/-- INIT, the word 0x000, in ABSORB and in DONE, with ERR 0 or 1; a word 0x0nn with nn not 0 raises ILLEGAL_COMMAND
instead (R63). -/
def Obligations.InitBeginsAMessage : Prop :=
  ∀ s : State, s.phase.quiescent = true →
    (∀ b : Byte, b ≠ 0 → s.transfer (0x0#4 ++ b) = .next (s.raise .illegalCommand))
    ∧ ∃ t, s.transfer 0x000#12 = exec .init s ∧ exec .init s = .next t
      ∧ t.acc.h0 = 0x67452301 ∧ t.acc.h1 = 0xEFCDAB89 ∧ t.acc.h2 = 0x98BADCFE ∧ t.acc.h3 = 0x10325476
      ∧ t.acc.h4 = 0xC3D2E1F0
      ∧ t.len = 0#61 ∧ t.pos = 0#6 ∧ t.t = 0#7 ∧ t.phase = .absorb ∧ t.ret = .absorb ∧ t.err = false ∧ t.ecode = .none
      ∧ t.dv = false ∧ t.resp = some 0x000#9
      ∧ t.buf = s.buf ∧ s.sameBuffer t ∧ s.sameScratchRegisters t ∧ t.trace = s.trace ∧ s.sameInputs t

/-- UPDATE imm8 absorbs one message byte; the byte at POS = 63 closes the block (R64). -/
def Obligations.UpdateAbsorbsAByte : Prop :=
  ∀ (s : State) (imm8 : Byte), s.err = false → s.phase = .absorb → s.len.toNat < 2 ^ 61 - 1 →
    ∃ t, exec (.update imm8) s = .next t
      ∧ t.len.toNat = s.len.toNat + 1
      ∧ t.bufByte s.pos.toNat = imm8 ∧ s.sameBufferBut t s.pos.toNat
      ∧ (s.pos.toNat = 63 → t.pos = 0#6 ∧ t.ret = .absorb ∧ t.phase = .load)
      ∧ (s.pos.toNat < 63 → t.pos.toNat = s.pos.toNat + 1 ∧ t.ret = s.ret ∧ t.phase = .absorb)
      ∧ t.resp = some 0x000#9
      ∧ t.acc = s.acc ∧ s.sameScratchRegisters t ∧ t.t = s.t ∧ s.sameStatus t ∧ t.trace = s.trace ∧ s.sameInputs t

/-- FINAL starts the padding (R65, its pseudocode). -/
def Obligations.FinalStartsPadding : Prop :=
  ∀ s : State, s.err = false → s.phase = .absorb →
    ∃ t, exec .final s = .next t ∧ t.phase = .padTerm ∧ t.resp = some 0x000#9
      ∧ t.acc = s.acc ∧ s.sameScratchRegisters t ∧ s.sameBuffer t ∧ s.sameMessage t ∧ t.t = s.t ∧ t.ret = s.ret
      ∧ s.sameStatus t ∧ t.trace = s.trace ∧ s.sameInputs t

/-- RDDIG imm8 returns byte imm8 of the digest, the most significant byte of H0 first, and writes nothing else; an index
of 20 or more raises ILLEGAL_COMMAND, and an index up to 19 raises PROTOCOL when ERR = 1 or PHASE = ABSORB
(R66, R116). -/
def Obligations.RddigReturnsDigestByte : Prop :=
  ∀ (s : State) (imm8 : Byte), s.phase.quiescent = true →
    s.transfer (0x3#4 ++ imm8) = exec (.rddig imm8) s
    ∧ (imm8.toNat ≤ 19 → s.err = false → s.phase = .done →
        ∃ r : RespWord, exec (.rddig imm8) s = .next { s with resp := some r }
          ∧ r.toNat = (s.acc.word (imm8.toNat / 4)).toNat / 2 ^ (24 - 8 * (imm8.toNat % 4)) % 256
          ∧ r.toNat = s.acc.digest.toNat / 2 ^ (8 * (19 - imm8.toNat)) % 256)
    ∧ (20 ≤ imm8.toNat → exec (.rddig imm8) s = .next (s.raise .illegalCommand))
    ∧ (imm8.toNat ≤ 19 → (s.err = true ∨ s.phase = .absorb) → exec (.rddig imm8) s = .next (s.raise .protocol))

/-- RDSTAT returns the status view, with DV in bit 0, ERR in bit 1, ECODE in bits 3:2, PHASE in bits 6:4 and 0 in
bit 7, and writes nothing else (R32, R67). -/
def Obligations.RdstatReturnsStatus : Prop :=
  ∀ s : State, s.phase.quiescent = true →
    ∃ r : RespWord, exec .rdstat s = .next { s with resp := some r }
      ∧ r.toNat = (if s.phase = .done ∧ s.err = false then 1 else 0) + (if s.err then 2 else 0)
          + 4 * s.ecode.code.toNat + 16 * s.phase.code.toNat

/-- The only values STATUS can be read as: 0x00, 0x71, 0x06, 0x0A, 0x0E, 0x76 and 0x7A (R67). -/
def Obligations.StatusValues : Prop :=
  (∀ s : State, s.inv → s.errorQuiet → s.phase.quiescent = true →
    s.status ∈ [0x00#8, 0x71#8, 0x06#8, 0x0A#8, 0x0E#8, 0x76#8, 0x7A#8])
  ∧ (∀ s t : State, s.inv → s.errorQuiet → step s = .next t → t.errorQuiet)

/-- Admission by phase and error state, for every legal command word, and an illegal word in every state
(R68, R122, R123, R124). -/
def Obligations.AdmissionTable : Prop :=
  ∀ s : State, s.phase.quiescent = true →
    (∀ (w : CmdWord) (e : DecodeError), decodeCommand w = .error e → s.transfer w = .next (s.raise .illegalCommand))
    ∧ (∃ t, exec .init s = .next t ∧ t.resp = some 0x000#9)
    ∧ (exec .rdstat s = .next { s with resp := some (respOk s.status) })
    ∧ (∀ b, exec (.update b) s =
        if s.err = true ∨ s.phase = .done then .next (s.raise .protocol)
        else if s.len.toNat = 2 ^ 61 - 1 then .next (s.raise .lengthOverflow)
        else .next (({ s with len := s.len + 1#61 }.putByte b .absorb .absorb).respond 0x000#9))
    ∧ (exec .final s =
        if s.err = true ∨ s.phase = .done then .next (s.raise .protocol)
        else .next ({ s with phase := .padTerm }.respond 0x000#9))
    ∧ (∀ b, exec (.rddig b) s =
        if 20 ≤ b.toNat then .next (s.raise .illegalCommand)
        else if s.err = true ∨ s.phase = .absorb then .next (s.raise .protocol)
        else .next (s.respond (0#1 ++ s.acc.digestByte b.toNat)))

/-- Exception entry: a command that fails a check sets ERR and, if ERR was 0, ECODE to the check's code, answers
err = 1 and rdata = 0x00, and has no other effect (R125, R127). -/
def Obligations.ExceptionEntry : Prop :=
  ∀ (s : State) (i : Instr) (c : Cause), s.phase.quiescent = true → i.isCommand = true → s.admission i = some c →
    ∃ t, exec i s = .next t
      ∧ t.err = true ∧ t.ecode.code = (if s.err then s.ecode.code else c.code) ∧ t.resp = some 0x100#9
      ∧ t.acc = s.acc ∧ s.sameScratchRegisters t ∧ t.buf = s.buf ∧ s.sameBuffer t ∧ s.sameMessage t
      ∧ s.sameSequencer t ∧ t.trace = s.trace ∧ s.sameInputs t

/-- While ERR = 1 only INIT and RDSTAT are admitted, and the error state is left only by INIT or reset, which clear ERR
and ECODE and re-initialise H, LEN, POS and the sequencer (R126). -/
def Obligations.ErrorLeftOnlyByInitOrReset : Prop :=
  (∀ (s : State) (i : Instr), s.err = true → i.isCommand = true → i.wellFormed = true → i ≠ .init → i ≠ .rdstat →
    s.admission i = some .protocol)
  ∧ (∀ s : State, s.admission .init = none ∧ s.admission .rdstat = none)
  ∧ (∀ s t : State, s.err = true → step s = .next t →
      (t.err = true ∧ t.ecode = s.ecode)
      ∨ (((∃ rest, s.host = .reset :: rest) ∨ (∃ rest, s.host = .command 0x000#12 :: rest))
          ∧ t.err = false ∧ t.ecode = .none ∧ t.acc = Accumulator.iv ∧ t.len = 0#61 ∧ t.pos = 0#6
          ∧ t.phase = .absorb ∧ t.t = 0#7 ∧ t.ret = .absorb))

/-! ## The padder -/

/-- PADT writes the terminator at POS (R76, its pseudocode). -/
def Obligations.PadtWritesTerminator : Prop :=
  ∀ s : State, s.phase = .padTerm →
    ∃ t, exec .padt s = .next t
      ∧ t.bufByte s.pos.toNat = 0x80 ∧ s.sameBufferBut t s.pos.toNat
      ∧ (s.pos.toNat = 63 → t.pos = 0#6 ∧ t.ret = .padZero ∧ t.phase = .load)
      ∧ (s.pos.toNat < 63 → t.pos.toNat = s.pos.toNat + 1 ∧ t.ret = s.ret ∧ t.phase = .padZero)
      ∧ t.acc = s.acc ∧ s.sameScratchRegisters t ∧ t.len = s.len ∧ t.t = s.t ∧ s.sameStatus t ∧ t.resp = s.resp
      ∧ t.trace = s.trace ∧ s.sameInputs t

/-- PADZ writes a zero byte at POS, or at POS = 56 writes nothing and goes to PAD_LEN (R77, its pseudocode). -/
def Obligations.PadzFillsToOffset56 : Prop :=
  ∀ s : State, s.phase = .padZero →
    ∃ t, exec .padz s = .next t
      ∧ (s.pos.toNat = 56 → t.phase = .padLen ∧ t.pos = s.pos ∧ t.ret = s.ret ∧ s.sameBuffer t)
      ∧ (s.pos.toNat ≠ 56 → t.bufByte s.pos.toNat = 0x00 ∧ s.sameBufferBut t s.pos.toNat)
      ∧ (s.pos.toNat = 63 → t.pos = 0#6 ∧ t.ret = .padZero ∧ t.phase = .load)
      ∧ (s.pos.toNat ≠ 56 → s.pos.toNat < 63 →
          t.pos.toNat = s.pos.toNat + 1 ∧ t.ret = s.ret ∧ t.phase = .padZero)
      ∧ t.acc = s.acc ∧ s.sameScratchRegisters t ∧ t.len = s.len ∧ t.t = s.t ∧ s.sameStatus t ∧ t.resp = s.resp
      ∧ t.trace = s.trace ∧ s.sameInputs t

/-- PADL writes byte POS - 56 of the 64-bit bit length LEN · 8, the most significant first (R78, its pseudocode). -/
def Obligations.PadlWritesTrailerByte : Prop :=
  ∀ s : State, s.phase = .padLen → 56 ≤ s.pos.toNat →
    ∃ t, exec .padl s = .next t
      ∧ (t.bufByte s.pos.toNat).toNat = s.len.toNat * 8 / 2 ^ (8 * (63 - s.pos.toNat)) % 256
      ∧ s.sameBufferBut t s.pos.toNat
      ∧ (s.pos.toNat = 63 → t.pos = 0#6 ∧ t.ret = .done ∧ t.phase = .load)
      ∧ (s.pos.toNat < 63 → t.pos.toNat = s.pos.toNat + 1 ∧ t.ret = s.ret ∧ t.phase = .padLen)
      ∧ t.acc = s.acc ∧ s.sameScratchRegisters t ∧ t.len = s.len ∧ t.t = s.t ∧ s.sameStatus t ∧ t.resp = s.resp
      ∧ t.trace = s.trace ∧ s.sameInputs t

/-- The padded length is the smallest multiple of 64 that is at least L + 9, and the counts that go with it (R73). -/
def Obligations.PaddedLength : Prop :=
  ∀ l : Nat,
    paddedLength l % 64 = 0 ∧ l + 9 ≤ paddedLength l
    ∧ (∀ n, n % 64 = 0 → l + 9 ≤ n → paddedLength l ≤ n)
    ∧ padCount l = paddedLength l - l ∧ 9 ≤ padCount l ∧ padCount l ≤ 72
    ∧ (l % 64 = 55 → padCount l = 9) ∧ (l % 64 = 56 → padCount l = 72)
    ∧ padCount l = zeroFill l + 9 ∧ (zeroFill l : Int) = (55 - (l : Int)) % 64 ∧ zeroFill l ≤ 63
    ∧ (l + 1 + zeroFill l) % 64 = 56
    ∧ 64 * blockCount l = paddedLength l ∧ blockCount l = (l + 8) / 64 + 1 ∧ 1 ≤ blockCount l

/-- The padded message: the message first, then 0x80, then Z(L) zero bytes, then the bit length L · 8 in eight bytes,
the most significant first, a whole number of blocks in all (R74, R75). -/
def Obligations.PaddedMessageShape : Prop :=
  ∀ m : List Byte, m.length < 2 ^ 61 →
    (padMessage m).length = paddedLength m.length
    ∧ (padMessage m).take m.length = m
    ∧ (padMessage m)[m.length]? = some 0x80#8
    ∧ (∀ i, 1 ≤ i → i ≤ zeroFill m.length → (padMessage m)[m.length + i]? = some 0x00#8)
    ∧ (∀ j, j < 8 → ((padMessage m)[(padMessage m).length - 8 + j]?).map BitVec.toNat
        = some (m.length * 8 / 2 ^ (8 * (7 - j)) % 256))

/-- From PAD_ZERO at any POS up to 56, the padder fills the block: zero bytes to offset 55, the eight trailer bytes,
the block closed with RET = DONE, in 65 - POS steps (R77, R78, R80). -/
def Obligations.PadderFillsLastBlock : Prop :=
  ∀ s : State, s.inv → s.phase = .padZero → s.pos.toNat ≤ 56 → quietHost s.host →
    ∃ t, Host.Core.run Sys2Proof.core (56 - s.pos.toNat + 1 + 8) s = .next t
      ∧ t.phase = .load ∧ t.ret = .done ∧ t.pos = 0#6
      ∧ (∀ a, a < s.pos.toNat → t.bufByte a = s.bufByte a)
      ∧ (∀ a, s.pos.toNat ≤ a → a < 56 → t.bufByte a = 0x00)
      ∧ (∀ j, j < 8 → (t.bufByte (56 + j)).toNat = s.len.toNat * 8 / 2 ^ (8 * (7 - j)) % 256)
      ∧ t.acc = s.acc ∧ s.sameScratchRegisters t ∧ t.len = s.len ∧ t.t = s.t ∧ s.sameStatus t ∧ t.resp = s.resp
      ∧ t.trace = s.trace ∧ s.sameInputs t

/-! ## The block splitter, the schedule and the rounds -/

/-- LDBLK loads the sixteen big-endian words of the buffer and seeds A to E from H, in one step, and emits BLOCK with
the words just loaded (R86, R87). -/
def Obligations.LdblkLoadsTheBlock : Prop :=
  ∀ s : State, s.phase = .load →
    ∃ t, exec .ldblk s = .next t
      ∧ (∀ (i : Nat) (h : i < 16), t.sr[i].toNat =
          2 ^ 24 * (s.bufByte (4 * i)).toNat + 2 ^ 16 * (s.bufByte (4 * i + 1)).toNat
            + 2 ^ 8 * (s.bufByte (4 * i + 2)).toNat + (s.bufByte (4 * i + 3)).toNat)
      ∧ t.work = { a := s.acc.h0, b := s.acc.h1, c := s.acc.h2, d := s.acc.h3, e := s.acc.h4 }
      ∧ t.t = 0#7 ∧ t.phase = .round ∧ t.trace = s.trace ++ [.block t.sr]
      ∧ t.acc = s.acc ∧ t.buf = s.buf ∧ s.sameBuffer t ∧ s.sameMessage t ∧ t.ret = s.ret ∧ s.sameStatus t
      ∧ t.resp = s.resp ∧ s.sameInputs t

/-- RND0, a round with T in 0..19 (R103, R104). -/
def Obligations.Rnd0IsARound : Prop :=
  ∀ s : State, s.phase = .round → s.t.toNat ≤ 19 →
    ∃ t, exec .rnd0 s = .next t
      ∧ s.roundResult t ((s.work.b &&& s.work.c) ||| (~~~s.work.b &&& s.work.d)) 0x5A827999 ∧ s.roundFrame t

/-- RND1, a round with T in 20..39 (R103, R105). -/
def Obligations.Rnd1IsARound : Prop :=
  ∀ s : State, s.phase = .round → 20 ≤ s.t.toNat → s.t.toNat ≤ 39 →
    ∃ t, exec .rnd1 s = .next t
      ∧ s.roundResult t (s.work.b ^^^ s.work.c ^^^ s.work.d) 0x6ED9EBA1 ∧ s.roundFrame t

/-- RND2, a round with T in 40..59 (R103, R106). -/
def Obligations.Rnd2IsARound : Prop :=
  ∀ s : State, s.phase = .round → 40 ≤ s.t.toNat → s.t.toNat ≤ 59 →
    ∃ t, exec .rnd2 s = .next t
      ∧ s.roundResult t ((s.work.b &&& s.work.c) ||| (s.work.b &&& s.work.d) ||| (s.work.c &&& s.work.d)) 0x8F1BBCDC
      ∧ s.roundFrame t

/-- RND3, a round with T in 60..79; the round with T = 79 writes T = 0 and PHASE = FOLD (R103, R107). -/
def Obligations.Rnd3IsARound : Prop :=
  ∀ s : State, s.phase = .round → 60 ≤ s.t.toNat → s.t.toNat ≤ 79 →
    ∃ t, exec .rnd3 s = .next t
      ∧ s.roundResult t (s.work.b ^^^ s.work.c ^^^ s.work.d) 0xCA62C1D6 ∧ s.roundFrame t

/-- A micro-operation executes only in the phase, and a round only with the SEL, that selects it (R28, R53). -/
def Obligations.MicroOperationNeedsItsPhase : Prop :=
  ∀ (s t : State) (i : Instr), i.isCommand = false → exec i s = .next t →
    ∃ u, s.uop = some u ∧ decodeMicro u = .ok i

/-- The three functions bit by bit, the truth table of R98, and the equivalent forms of R99. -/
def Obligations.FunctionUnit : Prop :=
  ∀ b c d : Word,
    (∀ k, k < 32 →
      (fch b c d).getLsbD k = (if b.getLsbD k then c.getLsbD k else d.getLsbD k)
      ∧ (fpar b c d).getLsbD k = ((b.getLsbD k ^^ c.getLsbD k) ^^ d.getLsbD k)
      ∧ (fmaj b c d).getLsbD k
          = decide (2 ≤ (b.getLsbD k).toNat + (c.getLsbD k).toNat + (d.getLsbD k).toNat))
    ∧ fch b c d = ((b &&& c) ^^^ (~~~b &&& d)) ∧ fch b c d = (d ^^^ (b &&& (c ^^^ d)))
    ∧ fmaj b c d = ((b &&& c) ^^^ (b &&& d) ^^^ (c &&& d))
    ∧ fmaj b c d = ((b &&& c) ||| (d &&& (b ||| c)))

/-- A left rotation loses no bit and invents none, and the byte-order primitives are each other's inverse
(R11, R12). -/
def Obligations.RotationAndByteOrder : Prop :=
  (∀ (x : Word) (n i : Nat), 0 < n → n < 32 → i < 32 →
    (rotl32 x n).getLsbD i = x.getLsbD ((i + 32 - n) % 32))
  ∧ (∀ b0 b1 b2 b3 : Byte,
      byte32 (be32 b0 b1 b2 b3) 0 = b0 ∧ byte32 (be32 b0 b1 b2 b3) 1 = b1
      ∧ byte32 (be32 b0 b1 b2 b3) 2 = b2 ∧ byte32 (be32 b0 b1 b2 b3) 3 = b3)
  ∧ (∀ w : Word, be32 (byte32 w 0) (byte32 w 1) (byte32 w 2) (byte32 w 3) = w)
  ∧ (∀ (v : BitVec 64) (j : Nat), j < 8 → (byte64 v j).toNat = v.toNat / 2 ^ (8 * (7 - j)) % 256)

/-- The schedule: the block words verbatim, then the recurrence with offsets 3, 8, 14, 16 and a rotation by one
(R90, R91). -/
def Obligations.ScheduleRecurrence : Prop :=
  ∀ m : Vector Word 16,
    (∀ (t : Nat) (h : t < 16), schedule m t = m[t])
    ∧ (∀ t, 16 ≤ t → schedule m t =
        rotl32 (schedule m (t - 3) ^^^ schedule m (t - 8) ^^^ schedule m (t - 14) ^^^ schedule m (t - 16)) 1)

/-- Every step keeps the window: in round T the register SR holds W[T..T+15] of the block in the buffer, and after the
eightieth round W[80..95] (R22, R94). -/
def Obligations.ScheduleWindow : Prop :=
  ∀ s t : State, s.inv → s.windowHolds → step s = .next t → t.windowHolds

/-- Every step keeps that the working registers are those of COMPRESS after T rounds (R103, R108, R109). -/
def Obligations.WorkingStateOfRounds : Prop :=
  ∀ s t : State, s.inv → s.windowHolds → s.roundsHold → step s = .next t → t.roundsHold

/-- From LOAD, 82 steps compress the block in the buffer into H and go to RET (R109). -/
def Obligations.CompressionOfABlock : Prop :=
  ∀ s : State, s.inv → s.phase = .load → quietHost s.host →
    ∃ t, Host.Core.run Sys2Proof.core 82 s = .next t
      ∧ t.acc = compress s.acc s.blockWords ∧ t.phase = s.ret ∧ t.t = 0#7
      ∧ s.sameMessage t ∧ t.buf = s.buf ∧ s.sameBuffer t ∧ t.ret = s.ret ∧ s.sameStatus t
      ∧ t.resp = s.resp ∧ s.sameInputs t

/-- The compression of a block emits exactly 161 events: BLOCK, then W(t) and ROUND(t) for t from 0 to 79, with the
words of the schedule and the working registers after each round (R138). -/
def Obligations.TraceOfABlock : Prop :=
  ∀ s : State, s.inv → s.phase = .load → quietHost s.host →
    ∃ t, Host.Core.run Sys2Proof.core 82 s = .next t
      ∧ t.trace = s.trace ++ blockEvents s.acc s.blockWords
      ∧ (blockEvents s.acc s.blockWords).length = 161

/-- FOLD adds each working register into its accumulator word modulo 2^32 and goes to RET (R115). -/
def Obligations.FoldAddsIntoAccumulator : Prop :=
  ∀ s : State, s.phase = .fold → (s.ret = .absorb ∨ s.ret = .padZero ∨ s.ret = .done) →
    ∃ t, exec .fold s = .next t
      ∧ t.acc.h0.toNat = (s.acc.h0.toNat + s.work.a.toNat) % 2 ^ 32
      ∧ t.acc.h1.toNat = (s.acc.h1.toNat + s.work.b.toNat) % 2 ^ 32
      ∧ t.acc.h2.toNat = (s.acc.h2.toNat + s.work.c.toNat) % 2 ^ 32
      ∧ t.acc.h3.toNat = (s.acc.h3.toNat + s.work.d.toNat) % 2 ^ 32
      ∧ t.acc.h4.toNat = (s.acc.h4.toNat + s.work.e.toNat) % 2 ^ 32
      ∧ t.phase = s.ret ∧ t.dv = (s.ret = .done && !s.err)
      ∧ s.sameScratchRegisters t ∧ t.buf = s.buf ∧ s.sameBuffer t ∧ s.sameMessage t ∧ t.t = s.t ∧ t.ret = s.ret
      ∧ s.sameStatus t ∧ t.resp = s.resp ∧ t.trace = s.trace ∧ s.sameInputs t

/-! ## Whole-machine rules -/

/-- Who may write what, complete: an instruction that completes changes a register only if the table of R35 names it for
that register, and stores a byte nowhere but at POS. -/
def Obligations.WritePermissions : Prop :=
  ∀ (s t : State) (i : Instr), exec i s = .next t →
    (t.acc ≠ s.acc → i = .init ∨ i = .fold)
    ∧ (t.work ≠ s.work → i = .ldblk ∨ isRound i)
    ∧ (t.sr ≠ s.sr → i = .ldblk ∨ isRound i)
    ∧ (∀ a, t.bufByte a ≠ s.bufByte a → a = s.pos.toNat ∧ writesByte i)
    ∧ (t.len ≠ s.len → i = .init ∨ ∃ b, i = .update b)
    ∧ (t.pos ≠ s.pos → i = .init ∨ writesByte i)
    ∧ (t.phase ≠ s.phase → i = .init ∨ (s.pos = 63#6 ∧ ∃ b, i = .update b) ∨ i = .final ∨ i = .padt ∨ i = .padz
        ∨ i = .padl ∨ i = .ldblk ∨ (s.t = 79#7 ∧ isRound i) ∨ i = .fold)
    ∧ (t.t ≠ s.t → i = .init ∨ i = .ldblk ∨ isRound i)
    ∧ (t.ret ≠ s.ret → i = .init ∨ (s.pos = 63#6 ∧ writesByte i))
    ∧ (t.err ≠ s.err ∨ t.ecode ≠ s.ecode → i = .init ∨ (i.isCommand = true ∧ ∃ c, s.admission i = some c))
    ∧ ((i = .rdstat ∨ ∃ b, i = .rddig b) → s.admission i = none → t = { s with resp := t.resp })

/-- Micro-operations never raise: ERR and ECODE stay, no response is written, and the host's moves stay; and in every
reachable state that is not quiescent one of them completes (R128). -/
def Obligations.MicroOperationsNeverRaise : Prop :=
  (∀ (s t : State) (i : Instr), i.isCommand = false → exec i s = .next t →
    s.sameStatus t ∧ t.resp = s.resp ∧ s.sameInputs t)
  ∧ (∀ s : State, s.inv → s.phase.quiescent = false → ∃ i t, i.isCommand = false ∧ exec i s = .next t)

/-- LEN counts accepted bytes and never wraps: a step leaves it, adds one, or sets it to 0 by INIT or reset
(R25, R123). -/
def Obligations.LengthNeverWraps : Prop :=
  ∀ s t : State, step s = .next t → t.len ≠ s.len →
    (t.len.toNat = s.len.toNat + 1 ∧ s.phase = .absorb ∧ s.err = false)
    ∨ (t.len = 0#61 ∧ ((∃ rest, s.host = .reset :: rest) ∨ (∃ rest, s.host = .command 0x000#12 :: rest)))

/-- The trace stream is append-only and no rule reads it: a step appends the same events whatever the stream holds, and
does the same to everything else (R137). -/
def Obligations.TraceIsAppendOnlyAndUnread : Prop :=
  ∀ (s t : State) (other : List Event), step s = .next t →
    ∃ events, t.trace = s.trace ++ events
      ∧ step { s with trace := other } = .next { t with trace := other ++ events }

/-- Only LDBLK and the rounds emit events; the padder, FOLD and the host commands emit nothing (R138). -/
def Obligations.OnlyCompressionEmits : Prop :=
  ∀ (s t : State) (i : Instr), exec i s = .next t → i ≠ .ldblk → ¬ isRound i → t.trace = s.trace

/-- The digest is readable only when DV = 1: otherwise RDDIG answers err = 1 and rdata = 0x00, the digest port is zero,
and no command's response depends on H (R66, R117). -/
def Obligations.AccumulatorIsHidden : Prop :=
  ∀ (s : State) (h : Accumulator), s.phase.quiescent = true → s.dv = false →
    s.digestPort = 0
    ∧ (∀ b, ∃ t, exec (.rddig b) s = .next t ∧ t.resp = some 0x100#9)
    ∧ (∀ (i : Instr) (t : State), i.isCommand = true → exec i s = .next t →
        ∃ t', exec i { s with acc := h } = .next t' ∧ t'.resp = t.resp ∧ t'.digestPort = t.digestPort
          ∧ t'.trace = t.trace ∧ t'.phase = t.phase ∧ s.sameInputs t')

/-- No response, digest or trace event depends on the scratch registers' contents at reset: two states the host and the
trace consumer cannot tell apart take steps to two such states, or stop alike (R71, R143). -/
def Obligations.ScratchIsNeverObserved : Prop :=
  ∀ s s' : State, s.sameButScratch s' →
    (∀ t, step s = .next t → ∃ t', step s' = .next t' ∧ t.sameButScratch t')
    ∧ (∀ r, step s = .fault r → step s' = .fault r)
    ∧ (∀ r, step s = .refused r → step s' = .refused r)

/-! ## Transactions and messages -/

/-- A transaction taken as one step and the same transaction taken micro-operation by micro-operation end in the same
state, quiescent, after at most 237 micro-operations (R62, R152). -/
def Obligations.TransactionIsItsSteps : Prop :=
  ∀ (s : State) (w : CmdWord) (rest : List HostMove), s.inv → s.phase.quiescent = true →
    s.host = .command w :: rest → quietHost rest →
    ∃ n t, n ≤ 237 ∧ Host.Core.run Sys2Proof.core (n + 1) s = .next t
      ∧ (s.setHost rest).transaction w = .next t ∧ t.phase.quiescent = true ∧ t.respValid = true

/-- The UPDATE that closes a block: 82 micro-operations, after which the core absorbs again with the block folded into H
(R64, R152). -/
def Obligations.UpdateClosesABlock : Prop :=
  ∀ (s : State) (b : Byte) (rest : List HostMove), s.inv → s.phase = .absorb → s.err = false →
    s.len.toNat < 2 ^ 61 - 1 → s.pos = 63#6 → s.host = .command (0x1#4 ++ b) :: rest → quietHost rest →
    ∃ t u, step s = .next t ∧ Host.Core.run Sys2Proof.core 83 s = .next u
      ∧ t.bufByte 63 = b ∧ (∀ a, a < 63 → t.bufByte a = s.bufByte a)
      ∧ u.acc = compress s.acc t.blockWords
      ∧ u.phase = .absorb ∧ u.pos = 0#6 ∧ u.len.toNat = s.len.toNat + 1 ∧ u.resp = some 0x000#9 ∧ u.host = rest
      ∧ u.respValid = true

/-- FINAL runs exactly 1 + (Z(L) + 1) + 8 + 82·c micro-operations, and ends with the digest valid, LEN unchanged,
POS = 0, T = 0 and RET = DONE (R65, R152). -/
def Obligations.FinalReachesDone : Prop :=
  ∀ (s : State) (rest : List HostMove), s.inv → s.phase = .absorb → s.err = false →
    s.host = .command 0x200#12 :: rest → quietHost rest →
    (∃ t, Host.Core.run Sys2Proof.core (1 + finalMicroOps s.len.toNat) s = .next t
      ∧ t.phase = .done ∧ t.dv = true ∧ t.len = s.len ∧ t.pos = 0#6 ∧ t.t = 0#7 ∧ t.ret = .done
      ∧ t.resp = some 0x000#9 ∧ t.host = rest)
    ∧ (∀ k, 1 ≤ k → k ≤ finalMicroOps s.len.toNat →
        ∃ u, Host.Core.run Sys2Proof.core k s = .next u ∧ u.phase.quiescent = false)

/-- End to end: after INIT, or a reset, then one UPDATE per byte of a message with RDSTATs anywhere between, then FINAL,
the digest is valid, LEN is the length, and RDDIG 0 to 19 return SHA1 of the message (R69). -/
def Obligations.DigestOfTheMessage : Prop :=
  ∀ (s : State) (start : HostMove) (moves rest : List HostMove),
    (start = .reset ∨ (start = .command 0x000#12 ∧ s.phase.quiescent = true ∧ s.excluded = false)) →
    (∀ move ∈ moves, sendsMessage move) → (messageOf moves).length < 2 ^ 61 → quietHost rest →
    s.host = start :: (moves ++ .command 0x200#12 :: rest) →
    ∃ t, Host.Core.run Sys2Proof.core
        (moves.length + 2 + 82 * blockCount (messageOf moves).length + zeroFill (messageOf moves).length + 10) s
          = .next t
      ∧ t.phase = .done ∧ t.dv = true ∧ t.len.toNat = (messageOf moves).length ∧ t.host = rest
      ∧ (∀ i, i < 20 → ∃ b, (sha1 (messageOf moves))[i]? = some b
          ∧ exec (.rddig (BitVec.ofNat 8 i)) t = .next { t with resp := some (0#1 ++ b) })

/-- The bytes written to the buffer while a message is hashed, read back from the buffer after each write, are in order
the padded message (R80). Every step that is no reset writes the byte the rules give it at POS, and leaves the buffer alone
where they give it none, so these are all the bytes written. -/
def Obligations.PaddedMessageIsWritten : Prop :=
  (∀ s t : State, (∀ rest, s.host ≠ .reset :: rest) → step s = .next t →
    (∀ b, s.byteToWrite = some b → t.buf = s.buf.put s.pos.toNat b ∧ t.bufByte s.pos.toNat = b)
    ∧ (s.byteToWrite = none → t.buf = s.buf))
  ∧ ∀ (s : State) (start : HostMove) (moves rest : List HostMove),
    (start = .reset ∨ (start = .command 0x000#12 ∧ s.phase.quiescent = true ∧ s.excluded = false)) →
    (∀ move ∈ moves, sendsMessage move) → (messageOf moves).length < 2 ^ 61 → quietHost rest →
    s.host = start :: (moves ++ .command 0x200#12 :: rest) →
    bytesWritten
        (moves.length + 2 + 82 * blockCount (messageOf moves).length + zeroFill (messageOf moves).length + 10) s
      = padMessage (messageOf moves)

/-! ## The assembler -/

/-- The assembler never emits an illegal word except through `.word`. Its plain lines emit the word of their instruction,
with an operand out of range an error, and HASH expands to INIT, the UPDATES of its text, FINAL and RDDIGEST (R61). -/
def Obligations.AssemblerEmitsLegalWords : Prop :=
  (∀ (line : AsmLine) (words : List CmdWord), (∀ w, line ≠ .word w) → asmWords line = some words →
    ∀ w ∈ words, ∃ i, decodeCommand w = .ok i)
  ∧ (∀ n, n ≤ 255 → ∃ w, asmWords (.update n) = some [w] ∧ decodeCommand w = .ok (.update (BitVec.ofNat 8 n)))
  ∧ (∀ n, 255 < n → asmWords (.update n) = none)
  ∧ (∀ n, n ≤ 19 → ∃ w, asmWords (.rddig n) = some [w] ∧ decodeCommand w = .ok (.rddig (BitVec.ofNat 8 n)))
  ∧ (∀ n, 19 < n → asmWords (.rddig n) = none)
  ∧ (∀ (text : List Char) (words : List CmdWord), asmWords (.hash text) = some words ↔
      ∃ u d, asmWords (.updates text) = some u ∧ asmWords .rddigest = some d
        ∧ words = [0x000#12] ++ u ++ [0x200#12] ++ d)
end

