-- ==== Sys2Proof/Tests/Slice0.lean ====
section
/-! SUPPORT. The package's own tests, each a named theorem on fixed values. Expected values come from the spec: the
examples of rules R63 to R116 and the tables of spec/95_test_vectors.md. The witnesses show, for every statement with
hypotheses, a state and operands that meet them all, one for each clause at the edge of its range. -/

namespace Sys2Proof.Tests

open Sys2Proof Sys2Proof.Machine

/-! ## Helpers -/

/-- The next state, if there is one. -/
def nextOf : Host.Outcome State Fault Refusal → Option State
  | .next s => some s
  | .fault _ => none
  | .refused _ => none

/-- The fault, if there is one. -/
def faultOf : Host.Outcome State Fault Refusal → Option Fault
  | .next _ => none
  | .fault r => some r
  | .refused _ => none

/-- The refusal, if there is one. -/
def refusalOf : Host.Outcome State Fault Refusal → Option Refusal
  | .next _ => none
  | .fault _ => none
  | .refused r => some r

/-- The instruction a decoder gives, if it gives one. -/
def instrOf (r : Except DecodeError Instr) : Option Instr := r.toOption

/-- The error a decoder gives, if it gives one. -/
def errorOf : Except DecodeError Instr → Option DecodeError
  | .ok _ => none
  | .error e => some e

/-- A buffer with these bytes from address 0 up. -/
def bufferOf (bytes : List Byte) : Memory := (List.range bytes.length).zip bytes

/-- The block of the message "abc" (spec/95_test_vectors.md section 2.3). -/
def abcBlock : List Byte := [0x61, 0x62, 0x63, 0x80] ++ List.replicate 59 0x00 ++ [0x18]

/-- An accumulator of five words. -/
def five (h0 h1 h2 h3 h4 : Word) : Accumulator := { h0 := h0, h1 := h1, h2 := h2, h3 := h3, h4 := h4 }

/-- Working registers of five words. -/
def regs (a b c d e : Word) : WorkingState := { a := a, b := b, c := c, d := d, e := e }

/-- The core absorbing, with n bytes accepted, POS following LEN. -/
def absorbing (n : Nat) : State := { State.reset with len := BitVec.ofNat 61 n, pos := BitVec.ofNat 6 n }

/-- The core in a padding phase, with n bytes accepted and POS where given. -/
def paddingAt (p : Phase) (n pos : Nat) : State :=
  { State.reset with phase := p, len := BitVec.ofNat 61 n, pos := BitVec.ofNat 6 pos }

/-- The core with the block of "abc" closed by the last trailer byte, about to load it. -/
def loading : State :=
  { State.reset with phase := .load, ret := .done, len := 3#61, buf := bufferOf abcBlock }

/-- The core in round T with the working registers and the word SR[0] given, the rest of SR zero. -/
def roundAt (t : Nat) (r : WorkingState) (w : Word) : State :=
  { loading with phase := .round, t := BitVec.ofNat 7 t, work := r, sr := (Vector.replicate 16 0#32).set 0 w }

/-- The core at FOLD with these registers, to go to RET. -/
def folding (h : Accumulator) (r : WorkingState) (ret : Phase) : State :=
  { loading with phase := .fold, acc := h, work := r, ret := ret }

/-- The core with the digest of "abc" valid. -/
def done : State :=
  { loading with phase := .done, acc := five 0xA9993E36 0x4706816A 0xBA3E2571 0x7850C26C 0x9CD0D89D }

/-- A state in the error state with this cause. -/
def failed (s : State) (c : Cause) : State := { s with err := true, ecode := c }

/-- The core in round 0 of a block of 64 zero bytes, as LDBLK leaves it from a zero accumulator. -/
def zeroRound : State :=
  { State.reset with
    phase := .round, ret := .done, acc := five 0 0 0 0 0, buf := bufferOf (List.replicate 64 0x00) }

/-! ## Well-formedness -/

/-- R58: index 20 is no digest byte. -/
theorem test_wellFormed_rddig_20 : (Instr.rddig 20).wellFormed = false := by decide

/-- R52: the greatest index. -/
theorem test_wellFormed_rddig_19 : (Instr.rddig 19).wellFormed = true := by decide

/-! ## Decoding: a word of every constructor, written out from R52 and R53 -/

theorem test_decode_init : instrOf (decodeCommand 0b000000000000#12) = some .init := by decide

theorem test_decode_update : instrOf (decodeCommand 0b000101100001#12) = some (.update 0x61) := by decide

theorem test_decode_final : instrOf (decodeCommand 0b001000000000#12) = some .final := by decide

theorem test_decode_rddig : instrOf (decodeCommand 0b001100010011#12) = some (.rddig 19) := by decide

theorem test_decode_rdstat : instrOf (decodeCommand 0b010000000000#12) = some .rdstat := by decide

theorem test_decode_padt : instrOf (decodeMicro 0b00100#5) = some .padt := by decide

theorem test_decode_padz : instrOf (decodeMicro 0b01011#5) = some .padz := by decide

theorem test_decode_padl : instrOf (decodeMicro 0b01110#5) = some .padl := by decide

theorem test_decode_ldblk : instrOf (decodeMicro 0b10001#5) = some .ldblk := by decide

theorem test_decode_rnd0 : instrOf (decodeMicro 0b10100#5) = some .rnd0 := by decide

theorem test_decode_rnd1 : instrOf (decodeMicro 0b10101#5) = some .rnd1 := by decide

theorem test_decode_rnd2 : instrOf (decodeMicro 0b10110#5) = some .rnd2 := by decide

theorem test_decode_rnd3 : instrOf (decodeMicro 0b10111#5) = some .rnd3 := by decide

theorem test_decode_fold : instrOf (decodeMicro 0b11010#5) = some .fold := by decide

/-- The illegal words of spec/95_test_vectors.md section 2.7, by the rule that rejects each. -/
theorem test_decode_illegal :
    errorOf (decodeCommand 0x001#12) = some .nonzeroLowByte ∧ errorOf (decodeCommand 0x0FF#12) = some .nonzeroLowByte
    ∧ errorOf (decodeCommand 0x2FF#12) = some .nonzeroLowByte ∧ errorOf (decodeCommand 0x401#12) = some .nonzeroLowByte
    ∧ errorOf (decodeCommand 0x314#12) = some .digestIndex ∧ errorOf (decodeCommand 0x3FF#12) = some .digestIndex
    ∧ errorOf (decodeCommand 0x500#12) = some .reservedOpcode
    ∧ errorOf (decodeCommand 0xFFF#12) = some .reservedOpcode := by decide

/-- The encodings of spec/95_test_vectors.md section 2.7. -/
theorem test_encode :
    encode .init = .command 0x000#12 ∧ encode (.update 0x61) = .command 0x161#12
    ∧ encode (.update 0xFF) = .command 0x1FF#12 ∧ encode .final = .command 0x200#12
    ∧ encode (.rddig 0) = .command 0x300#12 ∧ encode (.rddig 19) = .command 0x313#12
    ∧ encode .rdstat = .command 0x400#12 := by decide

/-! ## Primitives (spec/95_test_vectors.md sections 2.1, 2.4 and 2.5) -/

/-- R98's word example. -/
theorem test_function_unit :
    fch 0xF0F0F0F0 0xCCCCCCCC 0xAAAAAAAA = 0xCACACACA#32 ∧ fpar 0xF0F0F0F0 0xCCCCCCCC 0xAAAAAAAA = 0x96969696#32
    ∧ fmaj 0xF0F0F0F0 0xCCCCCCCC 0xAAAAAAAA = 0xE8E8E8E8#32 := by decide

/-- R39's example, R104's rotation, R92's rotation corner and R75's trailer byte. -/
theorem test_byte_order :
    be32 0x61 0x62 0x63 0x80 = 0x61626380#32 ∧ rotl32 0x67452301 5 = 0xE8A4602C#32
    ∧ rotl32 0x80000000 1 = 0x00000001#32 ∧ byte64 0x00000000000001C0#64 6 = 0x01#8 := by decide

/-- Section 2.4, the row of M[0] = 80000000: W[16], W[30], W[31] and W[79]. -/
theorem test_schedule :
    let m : Vector Word 16 := (Vector.replicate 16 0#32).set 0 0x80000000#32
    schedule m 16 = 0x00000001#32 ∧ schedule m 30 = 0x0000000A#32 ∧ schedule m 31 = 0x00000020#32
    ∧ schedule m 79 = 0x00200080#32 := by decide +kernel

/-- Section 2.8: the digest of the empty message. -/
theorem test_sha1_empty :
    sha1 [] = [0xDA, 0x39, 0xA3, 0xEE, 0x5E, 0x6B, 0x4B, 0x0D, 0x32, 0x55, 0xBF, 0xEF, 0x95, 0x60, 0x18, 0x90, 0xAF,
      0xD8, 0x07, 0x09] := by decide +kernel

/-- Section 2.8: the digest of "abc". -/
theorem test_sha1_abc :
    sha1 [0x61, 0x62, 0x63] = [0xA9, 0x99, 0x3E, 0x36, 0x47, 0x06, 0x81, 0x6A, 0xBA, 0x3E, 0x25, 0x71, 0x78, 0x50, 0xC2,
      0x6C, 0x9C, 0xD0, 0xD8, 0x9D] := by decide +kernel

/-! ## The instructions, one step each -/

/-- R63's example. -/
theorem test_init :
    (nextOf (exec .init done)).map (fun t => (t.phase, t.acc, t.len, t.pos))
      = some (.absorb, five 0x67452301 0xEFCDAB89 0x98BADCFE 0x10325476 0xC3D2E1F0, 0#61, 0#6) := by decide

/-- R126: INIT leaves the error state. -/
theorem test_init_clears_error :
    (nextOf (exec .init (failed done .protocol))).map (fun t => (t.err, t.ecode)) = some (false, .none) := by decide

/-- R64's example. -/
theorem test_update :
    (nextOf (exec (.update 0x61) State.reset)).map (fun t => (t.buf.get? 0, t.pos, t.len, t.phase))
      = some (some 0x61#8, 1#6, 1#61, .absorb) := by decide

/-- Section 2.7, the length limit: the byte is not absorbed. -/
theorem test_update_overflow :
    (nextOf (exec (.update 0xAA) (absorbing (2 ^ 61 - 1)))).map (fun t => (t.ecode, t.len, t.pos, t.resp))
      = some (.lengthOverflow, BitVec.ofNat 61 (2 ^ 61 - 1), 63#6, some 0x100#9) := by decide

/-- R65: FINAL enters PAD_TERM. -/
theorem test_final :
    (nextOf (exec .final (absorbing 3))).map (fun t => (t.phase, t.resp)) = some (.padTerm, some 0x000#9) := by decide

/-- R65: a second FINAL is refused with PROTOCOL. -/
theorem test_final_again : (nextOf (exec .final done)).map (fun t => (t.phase, t.ecode)) = some (.done, .protocol) := by
  decide

/-- Section 2.6: RDDIG 19 of "abc". -/
theorem test_rddig : (nextOf (exec (.rddig 19) done)).map (fun t => t.resp) = some (some 0x09D#9) := by decide

/-- Section 2.7: from reset, RDDIG 0 raises PROTOCOL. -/
theorem test_rddig_early :
    (nextOf (exec (.rddig 0) State.reset)).map (fun t => (t.ecode, t.resp)) = some (.protocol, some 0x100#9) := by decide

/-- R67: 0x71 with the digest valid. -/
theorem test_rdstat : (nextOf (exec .rdstat done)).map (fun t => t.resp) = some (some 0x071#9) := by decide

/-- Section 2.7: 0x76 after an illegal word in DONE. -/
theorem test_rdstat_error :
    (nextOf (exec .rdstat (failed done .illegalCommand))).map (fun t => t.resp) = some (some 0x076#9) := by decide

/-- R76's example. -/
theorem test_padt :
    (nextOf (exec .padt (paddingAt .padTerm 3 3))).map (fun t => (t.buf.get? 3, t.pos, t.phase))
      = some (some 0x80#8, 4#6, .padZero) := by decide

/-- R76 with POS = 63. -/
theorem test_padt_closes :
    (nextOf (exec .padt (paddingAt .padTerm 63 63))).map (fun t => (t.pos, t.ret, t.phase))
      = some (0#6, .padZero, .load) := by decide

/-- R77: POS = 56 writes nothing. -/
theorem test_padz_exit :
    (nextOf (exec .padz (paddingAt .padZero 55 56))).map (fun t => (t.buf, t.pos, t.phase))
      = some ([], 56#6, .padLen) := by decide

/-- R77: the equality test, not POS of 56 or more. -/
theorem test_padz_past_56 :
    (nextOf (exec .padz (paddingAt .padZero 56 57))).map (fun t => (t.buf.get? 57, t.pos, t.phase))
      = some (some 0x00#8, 58#6, .padZero) := by decide

/-- R78's example. -/
theorem test_padl :
    (nextOf (exec .padl (paddingAt .padLen 3 63))).map (fun t => (t.buf.get? 63, t.pos, t.ret, t.phase))
      = some (some 0x18#8, 0#6, .done, .load) := by decide

/-- R75's example L = 56: trailer byte 6 is 01. -/
theorem test_padl_high :
    (nextOf (exec .padl (paddingAt .padLen 56 62))).map (fun t => (t.buf.get? 62, t.pos)) = some (some 0x01#8, 63#6) := by
  decide

/-- R86's example. -/
theorem test_ldblk :
    (nextOf (exec .ldblk loading)).map (fun t => (t.sr[0], t.sr[14], t.sr[15], t.work, t.phase))
      = some (0x61626380#32, 0#32, 0x00000018#32,
          regs 0x67452301 0xEFCDAB89 0x98BADCFE 0x10325476 0xC3D2E1F0, .round) := by decide

/-- R104's example. -/
theorem test_rnd0 :
    (nextOf (exec .rnd0
        (roundAt 0 (regs 0x67452301 0xEFCDAB89 0x98BADCFE 0x10325476 0xC3D2E1F0) 0x61626380))).map
          (fun t => (t.work, t.t))
      = some (regs 0x0116FC33 0x67452301 0x7BF36AE2 0x98BADCFE 0x10325476, 1#7) := by decide

/-- Section 2.5, T = 19. -/
theorem test_rnd0_last :
    (nextOf (exec .rnd0
        (roundAt 19 (regs 0x12345678 0xF0F0F0F0 0xFFFF0000 0x0000FFFF 0x9ABCDEF0) 0x0F1E2D3C))).map
          (fun t => (t.work, t.t))
      = some (regs 0x3BD863D6 0x12345678 0x3C3C3C3C 0xFFFF0000 0x0000FFFF, 20#7) := by decide

/-- R105's example. -/
theorem test_rnd1 :
    (nextOf (exec .rnd1
        (roundAt 20 (regs 0xFD9E1D7D 0xDC64901D 0x20AA99CA 0xD3A49608 0xC82F758B) 0x00000000))).map
          (fun t => (t.work, t.t))
      = some (regs 0x1A37B0CA 0xFD9E1D7D 0x77192407 0x20AA99CA 0xD3A49608, 21#7) := by decide

/-- R106's example. -/
theorem test_rnd2 :
    (nextOf (exec .rnd2
        (roundAt 40 (regs 0x32DE1CBA 0x4C986405 0xF718E5CF 0x03D447F6 0xF72EEC32) 0xD2E138C4))).map
          (fun t => (t.work, t.t))
      = some (regs 0xFC87DEDF 0x32DE1CBA 0x53261901 0xF718E5CF 0x03D447F6, 41#7) := by decide

/-- Section 2.5, T = 59. -/
theorem test_rnd2_last :
    (nextOf (exec .rnd2
        (roundAt 59 (regs 0x12345678 0xF0F0F0F0 0xFF00FF00 0x0F0F0F0F 0x9ABCDEF0) 0x0F1E2D3C))).map
          (fun t => (t.work, t.t))
      = some (regs 0x7E82970A 0x12345678 0x3C3C3C3C 0xFF00FF00 0x0F0F0F0F, 60#7) := by decide

/-- R107's example. -/
theorem test_rnd3 :
    (nextOf (exec .rnd3
        (roundAt 60 (regs 0x3F52DE5A 0x09D785FD 0x3498BFD4 0xF211824F 0xD79915AB) 0x7BA06619))).map
          (fun t => (t.work, t.t))
      = some (regs 0xD756C147 0x3F52DE5A 0x4275E17F 0x3498BFD4 0xF211824F, 61#7) := by decide

/-- Section 2.5, T = 79. -/
theorem test_rnd3_last :
    (nextOf (exec .rnd3
        (roundAt 79 (regs 0x00000001 0x80000001 0xAAAAAAAA 0x55555555 0x00000000) 0xFFFFFFFF))).map
          (fun t => (t.work, t.t, t.phase))
      = some (regs 0x4A62C1F3 0x00000001 0x60000000 0xAAAAAAAA 0x55555555, 0#7, .fold) := by decide

/-- R115's example. -/
theorem test_fold :
    (nextOf (exec .fold
        (folding Accumulator.iv (regs 0x42541B35 0x5738D5E1 0x21834873 0x681E6DF6 0xD8FDF6AD) .done))).map
          (fun t => (t.acc, t.phase, t.dv))
      = some (five 0xA9993E36 0x4706816A 0xBA3E2571 0x7850C26C 0x9CD0D89D, .done, true) := by decide

/-- Section 2.6, the row of carries discarded. -/
theorem test_fold_wraps :
    (nextOf (exec .fold
        (folding (five 0xFFFFFFFF 0x80000000 0x00000000 0x00000001 0x12345678)
          (regs 0x00000001 0x80000000 0x00000000 0xFFFFFFFF 0xEDCBA988) .padZero))).map (fun t => (t.acc, t.phase))
      = some (five 0 0 0 0 0, .padZero) := by decide

/-- R92's example: the register after a SCHEDSTEP. -/
theorem test_schedule_step :
    let sr := ((Vector.replicate 16 0#32).set 0 0x61626380#32).set 15 0x00000018#32
    (scheduleStep sr)[14] = 0x00000018#32 ∧ (scheduleStep sr)[15] = 0xC2C4C700#32 := by decide

/-- Section 2.7, priority: with PHASE = DONE and LEN = 2^61 - 1, UPDATE raises PROTOCOL. -/
theorem test_priority :
    ({ done with len := BitVec.ofNat 61 (2 ^ 61 - 1) } : State).admission (.update 0) = some .protocol := by decide

/-- R127: an illegal word after a PROTOCOL error leaves ECODE at 2. -/
theorem test_first_cause_kept :
    (nextOf (step { failed State.reset .protocol with host := [.command 0x500#12] })).map (fun t => (t.ecode, t.resp))
      = some (.protocol, some 0x100#9) := by decide

/-- U6: T = 80 selects no round. -/
theorem test_round_80 :
    faultOf (step { loading with phase := .round, t := 80#7 }) = some .noRoundSelected := by decide

/-- U5: PAD_LEN with POS below 56 has no step. -/
theorem test_excluded : faultOf (step (paddingAt .padLen 3 55)) = some .unreachableState := by decide

/-- R144: reset in the middle of a block. -/
theorem test_reset_mid_block :
    (nextOf (step { roundAt 40 (regs 1 2 3 4 5) 6 with host := [.reset] })).map
        (fun t => (t.phase, t.t, t.ret, t.acc, t.resp))
      = some (.absorb, 0#7, .absorb, Accumulator.iv, none) := by decide

/-- R61: `HASH "a"` has 23 words: INIT, one UPDATE, FINAL and twenty RDDIG. -/
theorem test_assembler :
    (asmWords (.hash ['a'])).map (fun words => (words.take 4, words.length))
      = some ([0x000#12, 0x161#12, 0x200#12, 0x300#12], 23) := by decide

/-- R61: a line of text, with a hexadecimal operand and a comment. -/
theorem test_assemble_line : assembleLine "UPDATE 0x61 ; a byte".toList = some [0x161#12] := by decide

/-- R73's table (section 2.2): L = 55, 56 and 63. -/
theorem test_padding_counts :
    (zeroFill 55, padCount 55, paddedLength 55, blockCount 55) = (0, 9, 64, 1)
    ∧ (zeroFill 56, padCount 56, paddedLength 56, blockCount 56) = (63, 72, 128, 2)
    ∧ (zeroFill 63, padCount 63, paddedLength 63, blockCount 63) = (56, 65, 128, 2) := by decide

/-- R152's table (section 2.9). -/
theorem test_step_counts :
    finalMicroOps 0 = 147 ∧ finalMicroOps 3 = 144 ∧ finalMicroOps 55 = 92 ∧ finalMicroOps 56 = 237
    ∧ finalMicroOps 64 = 147 := by decide

/-- R61 and log entry 20: a range is no operand of RDDIG. -/
theorem test_assemble_range : assembleLine "RDDIG 0..19".toList = none := by decide

/-! ## Witnesses of the statements about encoding and about a step -/

/-- DecodeOfEncode: the edge of the one operand constraint. -/
theorem witness_DecodeOfEncode : (Instr.rddig 19).wellFormed = true ∧ (Instr.update 255).wellFormed = true := by decide

/-- EncodeOfDecodedCommand. -/
theorem witness_EncodeOfDecodedCommand : decodeCommand 0x313#12 = .ok (.rddig 19) := rfl

/-- StepRunsTheCommand. -/
theorem witness_StepRunsTheCommand :
    let s : State := { done with host := [.command 0x313#12] }
    s.excluded = false ∧ s.phase.quiescent = true ∧ s.host = [.command 0x313#12]
      ∧ decodeCommand 0x313#12 = .ok (.rddig 19) := ⟨by decide, by decide, rfl, rfl⟩

/-- StepRunsTheMicroOperation, in ROUND at T = 79 with a command waiting, and in PAD_TERM with a wait. -/
theorem witness_StepRunsTheMicroOperation :
    (let s : State := { roundAt 79 (regs 1 2 3 4 5) 6 with host := [.command 0x000#12] }
     s.excluded = false ∧ s.phase.quiescent = false ∧ (∀ rest, s.host ≠ .reset :: rest) ∧ s.uop = some 0b10111#5
       ∧ decodeMicro 0b10111#5 = .ok .rnd3)
    ∧ (let s : State := { paddingAt .padTerm 3 3 with host := [.wait] }
       s.excluded = false ∧ s.phase.quiescent = false ∧ (∀ rest, s.host ≠ .reset :: rest) ∧ s.uop = some 0b00100#5
         ∧ decodeMicro 0b00100#5 = .ok .padt) :=
  ⟨⟨by decide, by decide, by simp, by decide, rfl⟩, ⟨by decide, by decide, by simp, by decide, rfl⟩⟩

/-- StepHoldsTheState, both clauses. -/
theorem witness_StepHoldsTheState :
    (done.excluded = false ∧ done.phase.quiescent = true ∧ done.host = [])
    ∧ (let s : State := { done with host := [.wait] }
       s.excluded = false ∧ s.phase.quiescent = true ∧ s.host = [.wait]) := by decide

/-- PlacedInstructionRuns, a command and a micro-operation. -/
theorem witness_PlacedInstructionRuns :
    decodeTableWord 12 0x313 = some (.rddig 19) ∧ decodeTableWord 5 0x17 = some .rnd3 := by decide

/-- IllegalWordRaises: a word of each of the three kinds, with ERR = 0 and with ERR = 1. -/
theorem witness_IllegalWordRaises :
    (let s : State := { done with host := [.command 0x500#12] }
     s.excluded = false ∧ s.phase.quiescent = true ∧ s.host = [.command 0x500#12] ∧ s.err = false
       ∧ 5 ≤ (0x500#12).toNat / 256)
    ∧ (let s : State := { failed done .protocol with host := [.command 0x0FF#12] }
       s.excluded = false ∧ s.phase.quiescent = true ∧ s.host = [.command 0x0FF#12] ∧ s.err = true
         ∧ (0x0FF#12).toNat / 256 = 0 ∧ (0x0FF#12).toNat % 256 ≠ 0)
    ∧ (let s : State := { State.reset with host := [.command 0x314#12] }
       s.excluded = false ∧ s.phase.quiescent = true ∧ s.host = [.command 0x314#12]
         ∧ (0x314#12).toNat / 256 = 3 ∧ 20 ≤ (0x314#12).toNat % 256) := by decide

/-- BusyCommandWaits, both clauses. -/
theorem witness_BusyCommandWaits :
    (let s : State := { loading with host := [.command 0x000#12] }
     s.phase.quiescent = false ∧ s.host = [.command 0x000#12] ∧ ∃ t, step s = .next t)
    ∧ loading.phase.quiescent = false ∧ Instr.init.isCommand = true :=
  ⟨⟨by decide, rfl, ⟨_, rfl⟩⟩, by decide, by decide⟩

/-- UnreachableStatesAreStuck, its three clauses, T at both ends of 80 to 127. -/
theorem witness_UnreachableStatesAreStuck :
    ((paddingAt .padLen 3 55).excluded = true ∧ ∀ rest, (paddingAt .padLen 3 55).host ≠ .reset :: rest)
    ∧ (let s : State := { loading with phase := .round, t := 80#7 }
       s.excluded = false ∧ s.phase = .round ∧ 80 ≤ s.t.toNat)
    ∧ (let s : State := { loading with phase := .round, t := 127#7 }
       s.excluded = false ∧ s.phase = .round ∧ 80 ≤ s.t.toNat)
    ∧ (folding Accumulator.iv (regs 1 2 3 4 5) .load).phase = .fold
    ∧ (folding Accumulator.iv (regs 1 2 3 4 5) .load).ret.isReturn = false :=
  ⟨⟨by decide, by simp [paddingAt, State.reset]⟩, by decide, by decide, by decide, by decide⟩

/-! ## Witnesses of the statements about reset and the invariants -/

/-- ResetAtAnyMoment: in the middle of a block, and in a state that no run reaches. -/
theorem witness_ResetAtAnyMoment :
    ({ roundAt 40 (regs 1 2 3 4 5) 6 with host := [.reset] } : State).host = [.reset]
    ∧ ({ paddingAt .padLen 3 55 with host := [.reset, .wait] } : State).host = [.reset, .wait] := by decide

/-- StepKeepsInvariant and StepNeverStops: a closed block, a round, and a command that raises. -/
theorem witness_StepKeepsInvariant :
    (loading.inv ∧ ∃ t, step loading = .next t)
    ∧ ((roundAt 79 (regs 1 2 3 4 5) 6).inv ∧ ∃ t, step (roundAt 79 (regs 1 2 3 4 5) 6) = .next t)
    ∧ (let s : State := { State.reset with host := [.command 0x300#12] }
       s.inv ∧ s.err = false ∧ ∃ t, step s = .next t ∧ t.err = true) :=
  ⟨⟨by decide, ⟨_, rfl⟩⟩, ⟨by decide, ⟨_, rfl⟩⟩, by decide, by decide, ⟨_, rfl, by decide⟩⟩

/-- StepNeverStops. -/
theorem witness_StepNeverStops : (paddingAt .padLen 3 56).inv ∧ (absorbing 63).inv ∧ done.inv :=
  ⟨by decide, by decide, by decide⟩

/-- NoUnwrittenByteIsRead: with all 64 bytes written, and with 63 written and the last to come. -/
theorem witness_NoUnwrittenByteIsRead :
    (loading.inv ∧ loading.blockWritten ∧ ∃ t, step loading = .next t)
    ∧ (let s : State := { absorbing 63 with buf := bufferOf (abcBlock.take 63), host := [.command 0x161#12] }
       s.inv ∧ s.blockWritten ∧ ∃ t, step s = .next t) :=
  ⟨⟨by decide, by unfold State.blockWritten; decide, ⟨_, rfl⟩⟩,
    by decide, by unfold State.blockWritten; decide, ⟨_, rfl⟩⟩

/-! ## Witnesses of the statements about the host commands -/

/-- InitBeginsAMessage, AdmissionTable and RdstatReturnsStatus: ABSORB and DONE, ERR 0 and 1, and an illegal word. -/
theorem witness_quiescent :
    State.reset.phase.quiescent = true ∧ done.phase.quiescent = true
    ∧ (failed State.reset .protocol).phase.quiescent = true ∧ (failed done .illegalCommand).phase.quiescent = true
    ∧ (0xFF#8 : Byte) ≠ 0 ∧ errorOf (decodeCommand 0x500#12) = some .reservedOpcode := by decide

/-- AdmissionTable: each branch of UPDATE's line, and the two branches of RDDIG's that raise. -/
theorem witness_AdmissionTable :
    (absorbing (2 ^ 61 - 1)).len.toNat = 2 ^ 61 - 1 ∧ (absorbing (2 ^ 61 - 2)).len.toNat ≠ 2 ^ 61 - 1
    ∧ (failed State.reset .protocol).err = true ∧ done.phase = .done ∧ done.err = false ∧ 20 ≤ (20#8).toNat
    ∧ ¬ 20 ≤ (19#8).toNat := by decide

/-- UpdateAbsorbsAByte: the last byte of a block, the last but one, and the last byte a message may have. -/
theorem witness_UpdateAbsorbsAByte :
    ((absorbing 63).err = false ∧ (absorbing 63).phase = .absorb ∧ (absorbing 63).len.toNat < 2 ^ 61 - 1
      ∧ (absorbing 63).pos.toNat = 63)
    ∧ ((absorbing 62).err = false ∧ (absorbing 62).phase = .absorb ∧ (absorbing 62).len.toNat < 2 ^ 61 - 1
      ∧ (absorbing 62).pos.toNat < 63)
    ∧ (absorbing (2 ^ 61 - 2)).err = false ∧ (absorbing (2 ^ 61 - 2)).phase = .absorb
    ∧ (absorbing (2 ^ 61 - 2)).len.toNat < 2 ^ 61 - 1 := by decide

/-- FinalStartsPadding, at the greatest length too. -/
theorem witness_FinalStartsPadding :
    (State.reset.err = false ∧ State.reset.phase = .absorb)
    ∧ (absorbing (2 ^ 61 - 1)).err = false ∧ (absorbing (2 ^ 61 - 1)).phase = .absorb := by decide

/-- RddigReturnsDigestByte: the first and the last index, the first illegal one, and the two states that refuse. -/
theorem witness_RddigReturnsDigestByte :
    done.phase.quiescent = true ∧ (0#8).toNat ≤ 19 ∧ (19#8).toNat ≤ 19 ∧ done.err = false ∧ done.phase = .done
    ∧ 20 ≤ (20#8).toNat ∧ State.reset.phase.quiescent = true ∧ State.reset.phase = .absorb
    ∧ (failed done .protocol).phase.quiescent = true ∧ (failed done .protocol).err = true := by decide

/-- StatusValues, both clauses: the least used cause and the valid digest. -/
theorem witness_StatusValues :
    (done.inv ∧ done.errorQuiet ∧ done.phase.quiescent = true ∧ ∃ t, step done = .next t)
    ∧ (let s := failed (absorbing (2 ^ 61 - 1)) .lengthOverflow
       s.inv ∧ s.errorQuiet ∧ s.phase.quiescent = true) :=
  ⟨⟨by decide, by unfold State.errorQuiet; decide, by decide, ⟨_, rfl⟩⟩,
    by decide, by unfold State.errorQuiet; decide, by decide⟩

/-- ExceptionEntry: each of the three causes, and a nested exception. -/
theorem witness_ExceptionEntry :
    (done.phase.quiescent = true ∧ (Instr.rddig 20).isCommand = true
      ∧ done.admission (.rddig 20) = some .illegalCommand)
    ∧ (Instr.final.isCommand = true ∧ done.admission .final = some .protocol)
    ∧ ((absorbing (2 ^ 61 - 1)).phase.quiescent = true ∧ (Instr.update 0).isCommand = true
      ∧ (absorbing (2 ^ 61 - 1)).admission (.update 0) = some .lengthOverflow)
    ∧ (failed done .protocol).phase.quiescent = true
    ∧ (failed done .protocol).admission (.rddig 0) = some .protocol := by decide

/-- ErrorLeftOnlyByInitOrReset: an instruction of the first clause, and steps that keep and that leave the state. -/
theorem witness_ErrorLeftOnlyByInitOrReset :
    ((failed done .protocol).err = true ∧ Instr.final.isCommand = true ∧ Instr.final.wellFormed = true
      ∧ Instr.final ≠ .init ∧ Instr.final ≠ .rdstat)
    ∧ (let s : State := { failed done .protocol with host := [.command 0x200#12] }
       s.err = true ∧ ∃ t, step s = .next t ∧ t.err = true)
    ∧ (let s : State := { failed done .protocol with host := [.command 0x000#12] }
       s.err = true ∧ ∃ t, step s = .next t ∧ t.err = false)
    ∧ (let s : State := { failed done .protocol with host := [.reset] }
       s.err = true ∧ ∃ t, step s = .next t ∧ t.err = false) :=
  ⟨by decide, ⟨by decide, _, rfl, by decide⟩, ⟨by decide, _, rfl, by decide⟩, by decide, _, rfl, by decide⟩

/-! ## Witnesses of the statements about the padder -/

/-- PadtWritesTerminator: POS = 62 and POS = 63. -/
theorem witness_PadtWritesTerminator :
    ((paddingAt .padTerm 62 62).phase = .padTerm ∧ (paddingAt .padTerm 62 62).pos.toNat < 63)
    ∧ (paddingAt .padTerm 63 63).phase = .padTerm ∧ (paddingAt .padTerm 63 63).pos.toNat = 63 := by decide

/-- PadzFillsToOffset56: POS = 55, 56, 57, 62 and 63. -/
theorem witness_PadzFillsToOffset56 :
    ((paddingAt .padZero 3 55).phase = .padZero ∧ (paddingAt .padZero 3 55).pos.toNat ≠ 56
      ∧ (paddingAt .padZero 3 55).pos.toNat < 63)
    ∧ (paddingAt .padZero 3 56).pos.toNat = 56
    ∧ ((paddingAt .padZero 3 57).pos.toNat ≠ 56 ∧ (paddingAt .padZero 3 57).pos.toNat < 63)
    ∧ (paddingAt .padZero 3 62).pos.toNat < 63 ∧ (paddingAt .padZero 3 63).pos.toNat = 63 := by decide

/-- PadlWritesTrailerByte: POS = 56, 62 and 63. -/
theorem witness_PadlWritesTrailerByte :
    ((paddingAt .padLen 3 56).phase = .padLen ∧ 56 ≤ (paddingAt .padLen 3 56).pos.toNat)
    ∧ (56 ≤ (paddingAt .padLen 3 62).pos.toNat ∧ (paddingAt .padLen 3 62).pos.toNat < 63)
    ∧ (paddingAt .padLen 3 63).phase = .padLen ∧ (paddingAt .padLen 3 63).pos.toNat = 63 := by decide

/-- PaddedLength: a multiple of 64 for its third clause, and the two lengths modulo 64 it names. -/
theorem witness_PaddedLength : 128 % 64 = 0 ∧ 55 + 9 ≤ 128 ∧ 119 % 64 = 55 ∧ 120 % 64 = 56 := by decide

/-- PaddedMessageShape: the empty message, and one with zero bytes between. -/
theorem witness_PaddedMessageShape :
    ([] : List Byte).length < 2 ^ 61 ∧ ([0x61#8] : List Byte).length < 2 ^ 61 ∧ zeroFill 1 = 54 := by decide

/-- PadderFillsLastBlock: POS = 0 and POS = 56, with no move and with a command waiting. -/
theorem witness_PadderFillsLastBlock :
    ((paddingAt .padZero 63 0).inv ∧ (paddingAt .padZero 63 0).phase = .padZero
      ∧ (paddingAt .padZero 63 0).pos.toNat ≤ 56 ∧ quietHost (paddingAt .padZero 63 0).host)
    ∧ (let s : State := { paddingAt .padZero 55 56 with host := [.command 0x400#12] }
       s.inv ∧ s.phase = .padZero ∧ s.pos.toNat ≤ 56 ∧ quietHost s.host) :=
  ⟨⟨by decide, by decide, by decide, .inl rfl⟩, by decide, by decide, by decide, .inr ⟨_, _, rfl⟩⟩

/-! ## Witnesses of the statements about blocks and rounds -/

/-- LdblkLoadsTheBlock. -/
theorem witness_LdblkLoadsTheBlock : loading.phase = .load := by decide

/-- Rnd0IsARound to Rnd3IsARound: the first and the last T of each. -/
theorem witness_RoundRanges :
    (∀ t ∈ [0, 19], (roundAt t (regs 1 2 3 4 5) 6).phase = .round ∧ (roundAt t (regs 1 2 3 4 5) 6).t.toNat ≤ 19)
    ∧ (∀ t ∈ [20, 39], (roundAt t (regs 1 2 3 4 5) 6).phase = .round
        ∧ 20 ≤ (roundAt t (regs 1 2 3 4 5) 6).t.toNat ∧ (roundAt t (regs 1 2 3 4 5) 6).t.toNat ≤ 39)
    ∧ (∀ t ∈ [40, 59], (roundAt t (regs 1 2 3 4 5) 6).phase = .round
        ∧ 40 ≤ (roundAt t (regs 1 2 3 4 5) 6).t.toNat ∧ (roundAt t (regs 1 2 3 4 5) 6).t.toNat ≤ 59)
    ∧ (∀ t ∈ [60, 79], (roundAt t (regs 1 2 3 4 5) 6).phase = .round
        ∧ 60 ≤ (roundAt t (regs 1 2 3 4 5) 6).t.toNat ∧ (roundAt t (regs 1 2 3 4 5) 6).t.toNat ≤ 79) := by decide

/-- MicroOperationNeedsItsPhase, MicroOperationsNeverRaise and OnlyCompressionEmits. -/
theorem witness_MicroOperations :
    Instr.padt.isCommand = false ∧ Instr.padt ≠ .ldblk ∧ ¬ isRound .padt
    ∧ (∃ t, exec .padt (paddingAt .padTerm 3 3) = .next t)
    ∧ (paddingAt .padTerm 3 3).inv ∧ (paddingAt .padTerm 3 3).phase.quiescent = false :=
  ⟨by decide, by decide, by unfold isRound; decide, ⟨_, rfl⟩, by decide, by decide⟩

/-- RotationAndByteOrder: the rotations at both ends of their range. -/
theorem witness_RotationAndByteOrder : (0 < 1 ∧ 1 < 32) ∧ (0 < 31 ∧ 31 < 32) ∧ 7 < 8 := by decide

/-- ScheduleWindow: the step from LOAD, a round, and the step after the eightieth. -/
theorem witness_ScheduleWindow :
    (loading.inv ∧ loading.windowHolds ∧ ∃ t, step loading = .next t)
    ∧ (zeroRound.inv ∧ zeroRound.windowHolds ∧ ∃ t, step zeroRound = .next t)
    ∧ (let s : State := { zeroRound with t := 79#7 }
       s.inv ∧ s.windowHolds ∧ ∃ t, step s = .next t)
    ∧ (let s : State := { zeroRound with phase := .fold }
       s.inv ∧ s.windowHolds ∧ ∃ t, step s = .next t) :=
  ⟨⟨by decide, by unfold State.windowHolds; decide +kernel, ⟨_, rfl⟩⟩,
    ⟨by decide, by unfold State.windowHolds; decide +kernel, ⟨_, rfl⟩⟩,
    ⟨by decide, by unfold State.windowHolds; decide +kernel, ⟨_, rfl⟩⟩,
    by decide, by unfold State.windowHolds; decide +kernel, ⟨_, rfl⟩⟩

/-- WorkingStateOfRounds: the first round of a block, and the last. -/
theorem witness_WorkingStateOfRounds :
    (zeroRound.inv ∧ zeroRound.windowHolds ∧ zeroRound.roundsHold ∧ ∃ t, step zeroRound = .next t)
    ∧ (let s : State :=
         { zeroRound with t := 79#7, work := compressRounds zeroRound.acc zeroRound.blockWords 79 }
       s.inv ∧ s.windowHolds ∧ s.roundsHold ∧ ∃ t, step s = .next t) :=
  ⟨⟨by decide, by unfold State.windowHolds; decide +kernel, by unfold State.roundsHold; decide +kernel, ⟨_, rfl⟩⟩,
    by decide, by unfold State.windowHolds; decide +kernel, by unfold State.roundsHold; decide +kernel, ⟨_, rfl⟩⟩

/-- CompressionOfABlock and TraceOfABlock. -/
theorem witness_CompressionOfABlock : loading.inv ∧ loading.phase = .load ∧ quietHost loading.host :=
  ⟨by decide, by decide, .inl rfl⟩

/-- FoldAddsIntoAccumulator: the three values RET takes. -/
theorem witness_FoldAddsIntoAccumulator :
    ∀ ret ∈ [Phase.absorb, .padZero, .done],
      let s := folding Accumulator.iv (regs 1 2 3 4 5) ret
      s.phase = .fold ∧ (s.ret = .absorb ∨ s.ret = .padZero ∨ s.ret = .done) := by decide

/-! ## Witnesses of the whole-machine rules -/

/-- WritePermissions: a step that changes each register. -/
theorem witness_WritePermissions :
    (∃ t, exec .fold (folding Accumulator.iv (regs 1 2 3 4 5) .done) = .next t ∧ t.acc ≠ Accumulator.iv
        ∧ t.phase ≠ .fold)
    ∧ (∃ t, exec .ldblk loading = .next t ∧ t.work ≠ loading.work ∧ t.sr ≠ loading.sr ∧ t.phase ≠ .load)
    ∧ (∃ t, exec (.update 0x61) (absorbing 63) = .next t ∧ t.len ≠ (absorbing 63).len ∧ t.pos ≠ (absorbing 63).pos
        ∧ t.phase ≠ .absorb)
    ∧ (∃ t, exec .padt (paddingAt .padTerm 63 63) = .next t ∧ t.ret ≠ (paddingAt .padTerm 63 63).ret)
    ∧ (∃ t, exec .rnd0 (roundAt 0 (regs 1 2 3 4 5) 6) = .next t ∧ t.t ≠ 0#7)
    ∧ (∃ t, exec .final done = .next t ∧ t.err ≠ done.err ∧ t.ecode ≠ done.ecode)
    ∧ (∃ t, exec .rdstat done = .next t ∧ done.admission .rdstat = none) :=
  ⟨⟨_, rfl, by decide, by decide⟩, ⟨_, rfl, by decide, by decide, by decide⟩,
    ⟨_, rfl, by decide, by decide, by decide⟩,
    ⟨_, rfl, by decide⟩, ⟨_, rfl, by decide⟩, ⟨_, rfl, by decide, by decide⟩, ⟨_, rfl, by decide⟩⟩

/-- LengthNeverWraps: LEN counted up to its greatest value, and LEN cleared by INIT and by reset. -/
theorem witness_LengthNeverWraps :
    (let s : State := { absorbing (2 ^ 61 - 2) with host := [.command 0x1AA#12] }
     ∃ t, step s = .next t ∧ t.len ≠ s.len)
    ∧ (let s : State := { absorbing 3 with host := [.command 0x000#12] }
       ∃ t, step s = .next t ∧ t.len ≠ s.len)
    ∧ (let s : State := { absorbing 3 with host := [.reset] }
       ∃ t, step s = .next t ∧ t.len ≠ s.len) :=
  ⟨⟨_, rfl, by decide⟩, ⟨_, rfl, by decide⟩, ⟨_, rfl, by decide⟩⟩

/-- TraceIsAppendOnlyAndUnread: a step that emits. -/
theorem witness_TraceIsAppendOnlyAndUnread : ∃ t, step loading = .next t ∧ t.trace.length = 1 := ⟨_, rfl, by decide⟩

/-- AccumulatorIsHidden: absorbing, and done with an error; a command that completes in each. -/
theorem witness_AccumulatorIsHidden :
    (State.reset.phase.quiescent = true ∧ State.reset.dv = false)
    ∧ ((failed done .protocol).phase.quiescent = true ∧ (failed done .protocol).dv = false)
    ∧ Instr.rdstat.isCommand = true ∧ ∃ t, exec .rdstat (failed done .protocol) = .next t :=
  ⟨by decide, by decide, by decide, ⟨_, rfl⟩⟩

/-- ScratchIsNeverObserved: two states with different scratch that take a step, and that fault. -/
theorem witness_ScratchIsNeverObserved :
    (loading.sameButScratch { loading with work := regs 1 2 3 4 5, sr := Vector.replicate 16 7#32, resets := 9 }
      ∧ ∃ t, step loading = .next t)
    ∧ (let s := paddingAt .padLen 3 55
       s.sameButScratch { s with work := regs 1 2 3 4 5 } ∧ step s = .fault .unreachableState) := by
  refine ⟨⟨⟨rfl, ⟨rfl, rfl⟩, ⟨rfl, rfl, rfl⟩, ⟨rfl, rfl⟩, rfl, rfl, rfl, ?_, by decide, by decide⟩, ⟨_, rfl⟩⟩,
    ⟨⟨rfl, ⟨rfl, rfl⟩, ⟨rfl, rfl, rfl⟩, ⟨rfl, rfl⟩, rfl, rfl, rfl, fun _ _ => rfl, by decide, by decide⟩, rfl⟩⟩
  show ∀ a, a < 64 → _
  decide

/-! ## Witnesses of the statements about transactions, messages and the assembler -/

/-- TransactionIsItsSteps: the longest FINAL. -/
theorem witness_TransactionIsItsSteps :
    let s : State := { absorbing 56 with host := [.command 0x200#12] }
    s.inv ∧ s.phase.quiescent = true ∧ s.host = [.command 0x200#12] ∧ quietHost [] :=
  ⟨by decide, by decide, rfl, .inl rfl⟩

/-- UpdateClosesABlock. -/
theorem witness_UpdateClosesABlock :
    let s : State := { absorbing 63 with host := [.command (0x1#4 ++ 0x61#8), .command 0x400#12] }
    s.inv ∧ s.phase = .absorb ∧ s.err = false ∧ s.len.toNat < 2 ^ 61 - 1 ∧ s.pos = 63#6
      ∧ s.host = [.command (0x1#4 ++ 0x61#8), .command 0x400#12] ∧ quietHost [.command 0x400#12] :=
  ⟨by decide, by decide, by decide, by decide, by decide, rfl, .inr ⟨_, _, rfl⟩⟩

/-- FinalReachesDone: one block and two blocks. -/
theorem witness_FinalReachesDone :
    ∀ n ∈ [55, 56], (let s : State := { absorbing n with host := [.command 0x200#12] }
      s.inv ∧ s.phase = .absorb ∧ s.err = false ∧ s.host = [.command 0x200#12]) ∧ 1 ≤ finalMicroOps n := by decide

/-- PaddedMessageIsWritten, its clauses about one step: a step that writes the last byte of a block, one that writes
none, and a command that is refused. -/
theorem witness_PaddedMessageIsWritten :
    (let s : State := { absorbing 63 with host := [.command 0x161#12] }
     (∀ rest, s.host ≠ .reset :: rest) ∧ (∃ t, step s = .next t) ∧ s.byteToWrite = some 0x61#8)
    ∧ (let s := paddingAt .padZero 55 56
       (∀ rest, s.host ≠ .reset :: rest) ∧ (∃ t, step s = .next t) ∧ s.byteToWrite = none)
    ∧ (let s : State := { failed (absorbing 3) .protocol with host := [.command 0x161#12] }
       (∀ rest, s.host ≠ .reset :: rest) ∧ (∃ t, step s = .next t) ∧ s.byteToWrite = none) :=
  ⟨⟨by simp, ⟨_, rfl⟩, by decide⟩, ⟨by simp [paddingAt, State.reset], ⟨_, rfl⟩, by decide⟩,
    by simp, ⟨_, rfl⟩, by decide⟩

/-- DigestOfTheMessage and PaddedMessageIsWritten, its clause about a message: from a reset in the middle of a block, and from INIT. -/
theorem witness_DigestOfTheMessage :
    let moves : List HostMove := [.command (0x1#4 ++ 0x61#8), .command 0x400#12]
    ((HostMove.reset = .reset ∨ (HostMove.reset = .command 0x000#12 ∧ loading.phase.quiescent = true
        ∧ loading.excluded = false))
      ∧ ({ loading with host := .reset :: (moves ++ [.command 0x200#12]) } : State).host
          = .reset :: (moves ++ [.command 0x200#12]))
    ∧ (HostMove.command 0x000#12 = .command 0x000#12 ∧ done.phase.quiescent = true ∧ done.excluded = false)
    ∧ (∀ move ∈ moves, sendsMessage move) ∧ messageOf moves = [0x61] ∧ (messageOf moves).length < 2 ^ 61
    ∧ quietHost [] := by
  refine ⟨⟨.inl rfl, rfl⟩, ⟨rfl, by decide, by decide⟩, ?_, by decide, by decide, .inl rfl⟩
  intro move h
  rcases List.mem_cons.mp h with rfl | h
  · exact .inr ⟨_, rfl⟩
  · exact .inl (List.mem_singleton.mp h)

/-- AssemblerEmitsLegalWords: a line that is no `.word`, operands at both ends of their range, and a text. -/
theorem witness_AssemblerEmitsLegalWords :
    ((∀ w, AsmLine.rddigest ≠ .word w) ∧ (asmWords .rddigest).isSome = true)
    ∧ 255 ≤ 255 ∧ 255 < 256 ∧ 19 ≤ 19 ∧ 19 < 20 ∧ (asmWords (.hash ['a', 'b'])).isSome = true :=
  ⟨⟨by simp, by decide⟩, by decide, by decide, by decide, by decide, by decide⟩

end Sys2Proof.Tests
end

section
/-! The schedule of a block as a function (spec/43_message_schedule.md R90, R91), and the window of it that SR holds
(spec/10_state.md R22): LDBLK opens the window at W[0], and SCHEDSTEP moves it by one word (R92, R94). -/

namespace Sys2Proof.Machine

/-! ## The schedule -/

@[simp] theorem scheduleWords_succ (m : Vector Word 16) (n : Nat) :
    scheduleWords m (n + 1) = schedule m n :: scheduleWords m n := rfl

/-- Entry k of the first n schedule words, the latest first, is W[n - 1 - k]. -/
theorem scheduleWords_getD (m : Vector Word 16) {n k : Nat} (h : k < n) :
    (scheduleWords m n).getD k 0 = schedule m (n - 1 - k) := by
  induction n generalizing k with
  | zero => omega
  | succ n ih =>
    cases k with
    | zero => simp
    | succ k =>
      rw [scheduleWords_succ, List.getD_cons_succ, ih (by omega)]
      congr 1
      omega

/-- The first sixteen words are the block's own (R90). -/
theorem schedule_of_lt (m : Vector Word 16) {t : Nat} (h : t < 16) : schedule m t = m[t] := by
  simp [schedule, nextScheduleWord, h]

/-- The recurrence of R90, its offsets counted up from W[t] as the taps of SR are (R92). -/
theorem schedule_add_sixteen (m : Vector Word 16) (t : Nat) :
    schedule m (t + 16) =
      rotl32 (schedule m (t + 13) ^^^ schedule m (t + 8) ^^^ schedule m (t + 2) ^^^ schedule m t) 1 := by
  have tap (k : Nat) (hk : k < 16) : (scheduleWords m (t + 16)).getD k 0 = schedule m (t + (15 - k)) := by
    rw [scheduleWords_getD m (by omega)]
    congr 1
    omega
  rw [schedule, nextScheduleWord, dif_neg (by omega), tap 2 (by omega), tap 7 (by omega), tap 13 (by omega),
    tap 15 (by omega)]
  rfl

/-! ## The window -/

/-- SR holds the sixteen schedule words of the block `m` from W[n] on. -/
def holdsWindow (sr m : Vector Word 16) (n : Nat) : Prop :=
  ∀ (i : Nat) (h : i < 16), sr[i] = schedule m (n + i)

theorem State.windowHolds_iff (s : State) :
    s.windowHolds ↔
      (s.phase = .round → holdsWindow s.sr s.blockWords s.t.toNat)
      ∧ (s.phase = .fold → holdsWindow s.sr s.blockWords 80) := Iff.rfl

/-- A block loaded into SR is its own window at W[0] (R94). -/
theorem holdsWindow_block (m : Vector Word 16) : holdsWindow m m 0 := by
  intro i hi
  rw [Nat.zero_add, schedule_of_lt m hi]

/-- The word SCHEDSTEP computes is the next one of the schedule (R92). -/
theorem scheduleWord_of_holdsWindow {sr m : Vector Word 16} {n : Nat} (h : holdsWindow sr m n) :
    scheduleWord sr = schedule m (n + 16) := by
  rw [schedule_add_sixteen, scheduleWord, h 13 (by omega), h 8 (by omega), h 2 (by omega), h 0 (by omega)]
  rfl

/-- SCHEDSTEP moves the window by one word (R92, R94). -/
theorem holdsWindow_scheduleStep {sr m : Vector Word 16} {n : Nat} (h : holdsWindow sr m n) :
    holdsWindow (scheduleStep sr) m (n + 1) := by
  intro i hi
  rw [scheduleStep, Vector.getElem_ofFn]
  split
  next hlt => rw [h (i + 1) (Nat.succ_lt_succ hlt), Nat.add_right_comm, Nat.add_assoc]
  next hge =>
    obtain rfl : i = 15 := Nat.le_antisymm (Nat.le_of_lt_succ hi) (Nat.le_of_not_lt hge)
    exact scheduleWord_of_holdsWindow h

end Sys2Proof.Machine
end

section
/-! What a step of the sequencer can do, said once: the effect of a command that a quiescent core executes (R62 to R67),
and that of the micro-operation of each busy phase (R28). -/

namespace Sys2Proof.Machine

/-- What an instruction executed in a quiescent phase can do: raise the exception of the check it fails (R124), or, when
it is admitted, have the effect of its host command (R63 to R67). -/
theorem exec_quiescent_cases {s t : State} {i : Instr} (hq : s.phase.quiescent = true) (h : exec i s = .next t) :
    (∃ c, s.admission i = some c ∧ t = s.raise c)
    ∨ (s.admission i = none ∧
        ((i = .init ∧ t = s.initialise.respond (respOk 0x00#8))
          ∨ (∃ b, i = .update b
              ∧ t = ({ s with len := s.len + 1#61 }.putByte b .absorb .absorb).respond (respOk 0x00#8))
          ∨ (i = .final ∧ t = { s with phase := .padTerm }.respond (respOk 0x00#8))
          ∨ (∃ b, i = .rddig b ∧ t = s.respond (respOk (s.acc.digestByte b.toNat)))
          ∨ (i = .rdstat ∧ t = s.respond (respOk s.status)))) := by
  have busy {p : Phase} (hp : s.phase = p) (hb : p.quiescent = false) : False := by simp [hp, hb] at hq
  cases i with
  | init => exact (State.command_cases (i := .init) h).2.imp_right (And.imp_right fun ht => .inl ⟨rfl, ht⟩)
  | update b => exact (State.command_cases h).2.imp_right (And.imp_right fun ht => .inr (.inl ⟨b, rfl, ht⟩))
  | final => exact (State.command_cases h).2.imp_right (And.imp_right fun ht => .inr (.inr (.inl ⟨rfl, ht⟩)))
  | rddig b =>
    exact (State.command_cases h).2.imp_right (And.imp_right fun ht => .inr (.inr (.inr (.inl ⟨b, rfl, ht⟩))))
  | rdstat =>
    exact (State.command_cases (i := .rdstat) h).2.imp_right
      (And.imp_right fun ht => .inr (.inr (.inr (.inr ⟨rfl, ht⟩))))
  | padt | padz | padl | ldblk | fold => exact (busy (State.micro_cases h).1 rfl).elim
  | rnd0 | rnd1 | rnd2 | rnd3 => exact (busy (State.roundMicro_cases h).1 rfl).elim

/-- What the micro-operation of a busy phase can do (R76 to R78, R86, R103, R115). -/
theorem State.microStep_cases {s t : State} (hq : s.phase.quiescent = false) (h : s.microStep = .next t) :
    (s.phase = .padTerm ∧ t = s.putByte 0x80#8 .padZero .padZero)
    ∨ (s.phase = .padZero ∧ s.pos = 56#6 ∧ t = { s with phase := .padLen })
    ∨ (s.phase = .padZero ∧ s.pos ≠ 56#6 ∧ t = s.putByte 0x00#8 .padZero .padZero)
    ∨ (s.phase = .padLen ∧ 56 ≤ s.pos.toNat ∧ t = s.putByte s.trailerByte .padLen .done)
    ∨ (s.phase = .load ∧ t = s.loadBlock.emit (.block s.blockWords))
    ∨ (s.phase = .round ∧ s.t.toNat ≤ 79
        ∧ t = s.roundStep (fsel (BitVec.ofNat 2 (s.t.toNat / 20)) s.work.b s.work.c s.work.d)
            (klut (BitVec.ofNat 2 (s.t.toNat / 20))))
    ∨ (s.phase = .fold ∧ s.ret.isReturn = true ∧ t = { s with acc := s.acc.add s.work, phase := s.ret }) := by
  cases hp : s.phase with
  | absorb | done => rw [hp] at hq; cases hq
  | padTerm =>
    rw [State.microStep_padTerm hp] at h
    have he := (State.micro_cases h).2
    injection he with he
    simp [he]
  | padZero =>
    rw [State.microStep_padZero hp] at h
    have he := (State.micro_cases h).2
    injection he with he
    split at he
    next h56 => exact .inr (.inl ⟨rfl, h56, he.symm⟩)
    next h56 => exact .inr (.inr (.inl ⟨rfl, h56, he.symm⟩))
  | padLen =>
    rw [State.microStep_padLen hp] at h
    have he := (State.micro_cases h).2
    split at he
    next => cases he
    next h56 =>
      injection he with he
      simp [Nat.le_of_not_lt h56, he]
  | load =>
    rw [State.microStep_load hp] at h
    have he := (State.micro_cases h).2
    injection he with he
    simp [he]
  | round =>
    by_cases ht : s.t.toNat ≤ 79
    · rw [State.microStep_round hp ht] at h
      injection h with h
      simp [ht, h]
    · rw [State.microStep_no_round hp (by omega)] at h
      cases h
  | fold =>
    rw [State.microStep_fold hp] at h
    have he := (State.micro_cases h).2
    split at he
    next hr =>
      injection he with he
      simp [hr, he]
    next => cases he

/-! ## ROUNDSTEP (R103) -/

section roundStep
variable (s : State) (f k : Word)

@[simp] theorem State.roundStep_sr : (s.roundStep f k).sr = scheduleStep s.sr := by
  unfold State.roundStep; dsimp only; split <;> rfl

@[simp] theorem State.roundStep_blockWords : (s.roundStep f k).blockWords = s.blockWords := by
  unfold State.roundStep; dsimp only; split <;> rfl

@[simp] theorem State.roundStep_t : (s.roundStep f k).t = if s.t = 79#7 then 0#7 else s.t + 1#7 := by
  unfold State.roundStep; dsimp only; split <;> rfl

theorem State.roundStep_phase (hp : s.phase = .round) :
    (s.roundStep f k).phase = if s.t = 79#7 then .fold else .round := by
  unfold State.roundStep; dsimp only; split <;> simp [hp]

end roundStep

end Sys2Proof.Machine
end

section
/-! The window of SR is kept by every step (spec/10_state.md R22, spec/43_message_schedule.md R94): only LDBLK enters
ROUND, only ROUNDSTEP stays there or enters FOLD, and no other step ends in either phase. -/

namespace Sys2Proof.Machine

/-- SR holds schedule words: PHASE is ROUND or FOLD. -/
def Phase.windowed (p : Phase) : Bool := p = .round || p = .fold

/-- Outside ROUND and FOLD the window says nothing. -/
theorem State.windowHolds_of_not_windowed {s : State} (h : s.phase.windowed = false) : s.windowHolds := by
  obtain ⟨hround, hfold⟩ : s.phase ≠ .round ∧ s.phase ≠ .fold := by simpa [Phase.windowed] using h
  exact ⟨fun hp => absurd hp hround, fun hp => absurd hp hfold⟩

theorem Phase.not_windowed_of_quiescent {p : Phase} (h : p.quiescent = true) : p.windowed = false := by
  cases p with
  | absorb | done => rfl
  | padTerm | padZero | padLen | load | round | fold => cases h

theorem Phase.not_windowed_of_isReturn {p : Phase} (h : p.isReturn = true) : p.windowed = false := by
  cases p with
  | absorb | padZero | done => rfl
  | padTerm | padLen | load | round | fold => cases h

/-- PutByte goes to its `cont` phase, or to LOAD (R84). -/
theorem State.putByte_not_windowed (s : State) (b : Byte) {cont : Phase} (ret : Phase)
    (h : cont.windowed = false) : (s.putByte b cont ret).phase.windowed = false := by
  rw [State.putByte_phase]
  split
  · rfl
  · exact h

/-- No command, legal or not, takes a quiescent core to ROUND or FOLD. -/
theorem State.transfer_not_windowed {s t : State} {w : CmdWord} (hq : s.phase.quiescent = true)
    (h : s.transfer w = .next t) : t.phase.windowed = false := by
  have hs := Phase.not_windowed_of_quiescent hq
  rcases State.transfer_cases h with ⟨i, -, hi⟩ | ⟨-, rfl⟩
  · rcases exec_quiescent_cases hq hi with
      ⟨c, -, rfl⟩ | ⟨-, ⟨-, rfl⟩ | ⟨b, -, rfl⟩ | ⟨-, rfl⟩ | ⟨b, -, rfl⟩ | ⟨-, rfl⟩⟩
    · rwa [State.raise_phase]
    · rfl
    · exact State.putByte_not_windowed _ b .absorb rfl
    · rfl
    · exact hs
    · exact hs
  · rwa [State.raise_phase]

/-- LDBLK opens the window at T = 0 (R86, R94). -/
theorem State.windowHolds_loadBlock (s : State) (e : Event) : (s.loadBlock.emit e).windowHolds :=
  ⟨fun _ => holdsWindow_block s.blockWords, fun hp => nomatch hp⟩

/-- A round moves the window and T together, and after round 79 leaves it at W[80] (R92, R103). -/
theorem State.windowHolds_roundStep {s : State} (f k : Word) (hp : s.phase = .round) (ht : s.t.toNat ≤ 79)
    (hw : s.windowHolds) : (s.roundStep f k).windowHolds := by
  have hstep := holdsWindow_scheduleStep (hw.1 hp)
  rw [State.windowHolds_iff, State.roundStep_phase s f k hp]
  by_cases h79 : s.t = 79#7
  · rw [h79] at hstep
    simpa [h79] using hstep
  · have hsucc : (s.t + 1#7).toNat = s.t.toNat + 1 := by bv_omega
    simpa [h79, hsucc] using hstep

/-- The micro-operation of a busy phase keeps the window. -/
theorem State.windowHolds_microStep {s t : State} (hq : s.phase.quiescent = false) (hw : s.windowHolds)
    (h : s.microStep = .next t) : t.windowHolds := by
  rcases State.microStep_cases hq h with
    ⟨-, rfl⟩ | ⟨-, -, rfl⟩ | ⟨-, -, rfl⟩ | ⟨-, -, rfl⟩ | ⟨-, rfl⟩ | ⟨hp, ht, rfl⟩ | ⟨-, hret, rfl⟩
  · exact State.windowHolds_of_not_windowed (s.putByte_not_windowed _ _ rfl)
  · exact State.windowHolds_of_not_windowed rfl
  · exact State.windowHolds_of_not_windowed (s.putByte_not_windowed _ _ rfl)
  · exact State.windowHolds_of_not_windowed (s.putByte_not_windowed _ _ rfl)
  · exact s.windowHolds_loadBlock _
  · exact State.windowHolds_roundStep _ _ hp ht hw
  · exact State.windowHolds_of_not_windowed (Phase.not_windowed_of_isReturn hret)

/-- Settles O43: a reset, a command and a held state end outside ROUND and FOLD, and each micro-operation keeps the
window. -/
theorem scheduleWindow : Obligations.ScheduleWindow := by
  intro s t _ hw h
  rcases step_cases h with ⟨rest, -, rfl⟩ | ⟨-, hq, hmove⟩ | ⟨-, hq, -, hmicro⟩
  · exact State.windowHolds_of_not_windowed rfl
  · rcases hmove with ⟨w, rest, -, hcmd⟩ | ⟨rest, -, rfl⟩ | ⟨-, rfl⟩
    · exact State.windowHolds_of_not_windowed (State.transfer_not_windowed (s := s.setHost rest) hq hcmd)
    · exact hw
    · exact hw
  · exact State.windowHolds_microStep (s := s.setHost (busyMoves s.host)) hq hw hmicro

end Sys2Proof.Machine
end

section
/-! The sequencer word by its fields (spec/30_encoding.md R49, R53): what the two masks of the micro-operations' rows
leave of a word, which micro-operation PHASE and SEL select, and that this is the one whose row the word matches. -/

namespace Sys2Proof

/-! ## What the masks leave of a sequencer word -/

/-- The mask of a row that ignores SEL leaves PHASE in its place. -/
theorem and_phaseMask_eq_iff : ∀ (u : UopWord) (p : BitVec 3),
    u.toNat &&& 0x1C = p.toNat * 4 ↔ uopPhase u = p := by decide

/-- The mask of a row that names PHASE and SEL leaves both. -/
theorem and_phaseSelMask_eq_iff : ∀ (u : UopWord) (p : BitVec 3) (k : BitVec 2),
    u.toNat &&& 0x1F = p.toNat * 4 + k.toNat ↔ uopPhase u = p ∧ uopSel u = k := by decide

/-! ## Selection -/

/-- The micro-operation that PHASE and SEL select; SEL matters only in ROUND (R53). -/
theorem decodeMicro_eq_ok_iff (u : UopWord) (i : Instr) :
    decodeMicro u = .ok i ↔
      (i = .padt ∧ uopPhase u = 1) ∨ (i = .padz ∧ uopPhase u = 2) ∨ (i = .padl ∧ uopPhase u = 3)
      ∨ (i = .ldblk ∧ uopPhase u = 4)
      ∨ (i = .rnd0 ∧ uopPhase u = 5 ∧ uopSel u = 0) ∨ (i = .rnd1 ∧ uopPhase u = 5 ∧ uopSel u = 1)
      ∨ (i = .rnd2 ∧ uopPhase u = 5 ∧ uopSel u = 2) ∨ (i = .rnd3 ∧ uopPhase u = 5 ∧ uopSel u = 3)
      ∨ (i = .fold ∧ uopPhase u = 6) := by
  have hsel : ∀ k : BitVec 2, k = 3 ↔ k ≠ 0 ∧ k ≠ 1 ∧ k ≠ 2 := by decide
  unfold decodeMicro
  split_ifs <;> simp_all [eq_comm (a := i)]

/-- Settles O5: each row's mask keeps the fields the selection looks at, and its match holds their values. -/
theorem sequencerWordSelects : Obligations.SequencerWordSelects := by
  intro u i
  rw [decodeMicro_eq_ok_iff]
  cases i with
  | init | update | final | rddig | rdstat => simp [Instr.isCommand]
  | padt => simpa [Instr.isCommand, tableRow] using (and_phaseMask_eq_iff u 1).symm
  | padz => simpa [Instr.isCommand, tableRow] using (and_phaseMask_eq_iff u 2).symm
  | padl => simpa [Instr.isCommand, tableRow] using (and_phaseMask_eq_iff u 3).symm
  | ldblk => simpa [Instr.isCommand, tableRow] using (and_phaseMask_eq_iff u 4).symm
  | rnd0 => simpa [Instr.isCommand, tableRow] using (and_phaseSelMask_eq_iff u 5 0).symm
  | rnd1 => simpa [Instr.isCommand, tableRow] using (and_phaseSelMask_eq_iff u 5 1).symm
  | rnd2 => simpa [Instr.isCommand, tableRow] using (and_phaseSelMask_eq_iff u 5 2).symm
  | rnd3 => simpa [Instr.isCommand, tableRow] using (and_phaseSelMask_eq_iff u 5 3).symm
  | fold => simpa [Instr.isCommand, tableRow] using (and_phaseMask_eq_iff u 6).symm

end Sys2Proof
end

section
/-! An illegal command word (spec/30_encoding.md R56 to R58): the decoder rejects it, and its transfer raises
ILLEGAL_COMMAND, which writes ERR, ECODE and the response (spec/60_exceptions.md R121, R125). -/

namespace Sys2Proof

theorem cmdOp_eq_iff (w : CmdWord) (op : BitVec 4) : cmdOp w = op ↔ w.toNat / 256 = op.toNat := by
  rw [← BitVec.toNat_inj, cmdOp_toNat]

theorem cmdImm8_eq_zero_iff (w : CmdWord) : cmdImm8 w = 0 ↔ w.toNat % 256 = 0 := by
  rw [← BitVec.toNat_inj, cmdImm8_toNat]
  rfl

theorem decodeCommand_reservedOpcode {w : CmdWord} (h : 5 ≤ w.toNat / 256) :
    decodeCommand w = .error .reservedOpcode := by
  have hop (op : BitVec 4) (hlt : op.toNat < 5) : cmdOp w ≠ op := by
    rw [Ne, cmdOp_eq_iff]
    omega
  simp [decodeCommand, hop]

theorem decodeCommand_nonzeroLowByte {w : CmdWord}
    (hop : w.toNat / 256 = 0 ∨ w.toNat / 256 = 2 ∨ w.toNat / 256 = 4) (hlow : w.toNat % 256 ≠ 0) :
    decodeCommand w = .error .nonzeroLowByte := by
  have hno (i : Instr) : noOperand w i = .error .nonzeroLowByte := if_neg (mt (cmdImm8_eq_zero_iff w).mp hlow)
  rcases hop with hop | hop | hop <;> simp [decodeCommand, cmdOp_eq_iff, hop, hno]

theorem decodeCommand_digestIndex {w : CmdWord} (hop : w.toNat / 256 = 3) (hidx : 20 ≤ w.toNat % 256) :
    decodeCommand w = .error .digestIndex := by
  have hgt : ¬ (cmdImm8 w).toNat ≤ 19 := by
    rw [cmdImm8_toNat]
    omega
  simp [decodeCommand, cmdOp_eq_iff, hop, hgt]

end Sys2Proof

namespace Sys2Proof.Machine

/-- In a quiescent phase the host's next command is transferred (R140). -/
theorem step_command {s : State} {w : CmdWord} {rest : List HostMove} (he : s.excluded = false)
    (hq : s.phase.quiescent = true) (hh : s.host = .command w :: rest) :
    step s = (s.setHost rest).transfer w := by
  simp [step, State.sequencerStep, State.proceed, he, hq, hh]

/-- The transfer of an illegal word raises ILLEGAL_COMMAND (R124, check 1). -/
theorem State.transfer_error (s : State) {w : CmdWord} {e : DecodeError} (h : decodeCommand w = .error e) :
    s.transfer w = .next (s.raise .illegalCommand) := by
  simp [State.transfer, h]

/-- Exception entry writes ERR, ECODE and the response and nothing else (R125). -/
theorem State.raise_frame (s : State) (c : Cause) :
    s.raise c = { s with err := (s.raise c).err, ecode := (s.raise c).ecode, resp := (s.raise c).resp } := by
  unfold State.raise; split <;> rfl

/-- Settles O10: whichever rule makes the word illegal, the decoder rejects it, so its transfer is exception entry. -/
theorem illegalWordRaises : Obligations.IllegalWordRaises := by
  intro s w rest he hq hh hillegal
  obtain ⟨e, hdec⟩ : ∃ e, decodeCommand w = .error e := by
    rcases hillegal with hop | ⟨hop, hlow⟩ | ⟨hop, hidx⟩
    · exact ⟨_, decodeCommand_reservedOpcode hop⟩
    · exact ⟨_, decodeCommand_nonzeroLowByte hop hlow⟩
    · exact ⟨_, decodeCommand_digestIndex hop hidx⟩
  have hstep : step s = .next ((s.setHost rest).raise .illegalCommand) :=
    (step_command he hq hh).trans (State.transfer_error _ hdec)
  have hframe := State.raise_frame (s.setHost rest) .illegalCommand
  refine ⟨_, hstep, State.raise_err .., State.raise_ecode .., State.raise_resp .., State.raise_host .., ?_⟩
  rw [State.raise_host]
  exact hframe

end Sys2Proof.Machine
end

section
/-! The host commands (spec/40_host_commands.md R62 to R68): the words that decode to them, their admission by phase and
error state (R124), and what each leaves. -/

namespace Sys2Proof

/-! ## Their words (R52) -/

theorem decodeCommand_init : decodeCommand 0x000#12 = .ok .init := rfl

theorem decodeCommand_final : decodeCommand 0x200#12 = .ok .final := rfl

theorem decodeCommand_rdstat : decodeCommand 0x400#12 = .ok .rdstat := rfl

theorem decodeCommand_update (b : Byte) : decodeCommand (0x1#4 ++ b) = .ok (.update b) := by
  simp [decodeCommand]

theorem decodeCommand_rddig {b : Byte} (h : b.toNat ≤ 19) : decodeCommand (0x3#4 ++ b) = .ok (.rddig b) := by
  simp [decodeCommand, h]

end Sys2Proof

namespace Sys2Proof.Machine

/-! ## Their admission (R124) -/

theorem State.transfer_ok (s : State) {w : CmdWord} {i : Instr} (h : decodeCommand w = .ok i) :
    s.transfer w = exec i s := by
  simp [State.transfer, h]

theorem Phase.quiescent_iff {p : Phase} : p.quiescent = true ↔ p = .absorb ∨ p = .done := by
  simp [Phase.quiescent]

theorem eq_maxLen_iff (l : BitVec 61) : l = maxLen ↔ l.toNat = 2 ^ 61 - 1 := BitVec.toNat_inj.symm

theorem State.admission_update {s : State} (b : Byte) (hq : s.phase.quiescent = true) :
    s.admission (.update b) =
      if s.err = true ∨ s.phase = .done then some .protocol
      else if s.len.toNat = 2 ^ 61 - 1 then some .lengthOverflow
      else none := by
  rcases Phase.quiescent_iff.mp hq with hp | hp <;>
    cases he : s.err <;> simp [State.admission, hp, he, eq_maxLen_iff]

theorem State.admission_final {s : State} (hq : s.phase.quiescent = true) :
    s.admission .final = if s.err = true ∨ s.phase = .done then some .protocol else none := by
  rcases Phase.quiescent_iff.mp hq with hp | hp <;> cases he : s.err <;> simp [State.admission, hp, he]

theorem State.admission_rddig {s : State} (b : Byte) (hq : s.phase.quiescent = true) :
    s.admission (.rddig b) =
      if 20 ≤ b.toNat then some .illegalCommand
      else if s.err = true ∨ s.phase = .absorb then some .protocol
      else none := by
  rcases Phase.quiescent_iff.mp hq with hp | hp <;> cases he : s.err <;> simp [State.admission, hp, he]

/-! ## Their effects (R63 to R67) -/

/-- INIT is admitted in both quiescent phases, whatever ERR is (R122). -/
theorem exec_init {s : State} (hq : s.phase.quiescent = true) :
    exec .init s = .next (s.initialise.respond (respOk 0x00#8)) :=
  State.command_admitted (i := .init) _ hq rfl

/-- RDSTAT is admitted in both quiescent phases, whatever ERR is (R122). -/
theorem exec_rdstat {s : State} (hq : s.phase.quiescent = true) :
    exec .rdstat s = .next (s.respond (respOk s.status)) :=
  State.command_admitted (i := .rdstat) _ hq rfl

theorem exec_update {s : State} (b : Byte) (hq : s.phase.quiescent = true) :
    exec (.update b) s =
      if s.err = true ∨ s.phase = .done then .next (s.raise .protocol)
      else if s.len.toNat = 2 ^ 61 - 1 then .next (s.raise .lengthOverflow)
      else .next (({ s with len := s.len + 1#61 }.putByte b .absorb .absorb).respond (respOk 0x00#8)) := by
  have hadm := State.admission_update b hq
  split_ifs at hadm ⊢
  · exact State.command_raises _ hq hadm
  · exact State.command_raises _ hq hadm
  · exact State.command_admitted _ hq hadm

theorem exec_final {s : State} (hq : s.phase.quiescent = true) :
    exec .final s =
      if s.err = true ∨ s.phase = .done then .next (s.raise .protocol)
      else .next ({ s with phase := .padTerm }.respond (respOk 0x00#8)) := by
  have hadm := State.admission_final hq
  split_ifs at hadm ⊢
  · exact State.command_raises _ hq hadm
  · exact State.command_admitted (i := .final) _ hq hadm

theorem exec_rddig {s : State} (b : Byte) (hq : s.phase.quiescent = true) :
    exec (.rddig b) s =
      if 20 ≤ b.toNat then .next (s.raise .illegalCommand)
      else if s.err = true ∨ s.phase = .absorb then .next (s.raise .protocol)
      else .next (s.respond (respOk (s.acc.digestByte b.toNat))) := by
  have hadm := State.admission_rddig b hq
  split_ifs at hadm ⊢
  · exact State.command_raises _ hq hadm
  · exact State.command_raises _ hq hadm
  · exact State.command_admitted _ hq hadm

/-- RDDIG with a valid digest and an index in range. -/
theorem exec_rddig_done {s : State} {b : Byte} (hp : s.phase = .done) (he : s.err = false) (hb : b.toNat ≤ 19) :
    exec (.rddig b) s = .next (s.respond (respOk (s.acc.digestByte b.toNat))) := by
  rw [exec_rddig b (by rw [hp]; rfl), if_neg (by omega), if_neg (by simp [he, hp])]

/-- Settles O25: an illegal word fails check 1, and each legal command is its checks in order, then its effect. -/
theorem admissionTable : Obligations.AdmissionTable := by
  intro s hq
  exact ⟨fun _ _ he => State.transfer_error s he, ⟨_, exec_init hq, rfl⟩, exec_rdstat hq, fun b => exec_update b hq,
    exec_final hq, fun b => exec_rddig b hq⟩

/-- Settles O19: a low byte that is not zero is rejected by the decoder, and INIT re-initialises (R126), which leaves
the scratch registers. -/
theorem initBeginsAMessage : Obligations.InitBeginsAMessage := by
  intro s hq
  constructor
  · intro b hb
    have hw : (0x0#4 ++ b : CmdWord).toNat = 0 * 256 + b.toNat := opcode_append_toNat 0x0#4 b
    have hb' : b.toNat ≠ 0 := by simpa [← BitVec.toNat_inj] using hb
    have := b.isLt
    exact State.transfer_error s (decodeCommand_nonzeroLowByte (by omega) (by omega))
  · exact ⟨_, State.transfer_ok s decodeCommand_init, exec_init hq, rfl, rfl, rfl, rfl, rfl, rfl, rfl, rfl, rfl, rfl,
      rfl, rfl, rfl, rfl, rfl, State.bufByte_congr rfl rfl, ⟨rfl, rfl⟩, rfl, rfl, rfl⟩

/-! ## The digest's bytes (R33, R66, R116) -/

theorem Accumulator.digest_toNat (h : Accumulator) :
    h.digest.toNat =
      (((h.h0.toNat * 2 ^ 32 + h.h1.toNat) * 2 ^ 32 + h.h2.toNat) * 2 ^ 32 + h.h3.toNat) * 2 ^ 32 + h.h4.toNat := by
  have append {n : Nat} (x : BitVec n) (w : Word) : (x ++ w).toNat = x.toNat * 2 ^ 32 + w.toNat := by
    rw [BitVec.toNat_append, ← Nat.shiftLeft_add_eq_or_of_lt w.isLt, Nat.shiftLeft_eq]
  simp only [Accumulator.digest, append]

/-- Word q of the digest, the most significant first. -/
theorem Accumulator.digest_word (h : Accumulator) {q : Nat} (hq : q < 5) :
    h.digest.toNat / 2 ^ (32 * (4 - q)) % 2 ^ 32 = (h.word q).toNat := by
  have h0 := h.h0.isLt
  have h1 := h.h1.isLt
  have h2 := h.h2.isLt
  have h3 := h.h3.isLt
  have h4 := h.h4.isLt
  rw [Accumulator.digest_toNat]
  obtain rfl | rfl | rfl | rfl | rfl : q = 0 ∨ q = 1 ∨ q = 2 ∨ q = 3 ∨ q = 4 := by omega
  all_goals simp [Accumulator.word]; omega

theorem respOk_toNat (b : Byte) : (respOk b).toNat = b.toNat :=
  (BitVec.toNat_append 0#1 b).trans (by simp)

theorem byte32_toNat (w : Word) (k : Nat) : (byte32 w k).toNat = w.toNat / 2 ^ (24 - 8 * k) % 256 := by
  simp [byte32, Nat.shiftRight_eq_div_pow]

/-- Byte i of the digest as a number is byte i mod 4 of its word i div 4 (R33). -/
theorem Accumulator.digest_byte (h : Accumulator) {i : Nat} (hi : i ≤ 19) :
    h.digest.toNat / 2 ^ (8 * (19 - i)) % 256 = (h.word (i / 4)).toNat / 2 ^ (24 - 8 * (i % 4)) % 256 := by
  have hsplit : 8 * (19 - i) = 32 * (4 - i / 4) + (24 - 8 * (i % 4)) := by omega
  rw [← h.digest_word (show i / 4 < 5 by omega), hsplit, Nat.pow_add, ← Nat.div_div_eq_div_mul]
  obtain hr | hr | hr | hr : i % 4 = 0 ∨ i % 4 = 1 ∨ i % 4 = 2 ∨ i % 4 = 3 := by omega
  all_goals rw [hr]; omega

/-- Settles O22: RDDIG is its checks in order, then the byte, which has one value by word and by digest. -/
theorem rddigReturnsDigestByte : Obligations.RddigReturnsDigestByte := by
  intro s b hq
  have hexec := exec_rddig b hq
  refine ⟨?_, fun hb he hp => ?_, fun hb => ?_, fun hb hr => ?_⟩
  · by_cases hb : b.toNat ≤ 19
    · exact State.transfer_ok s (decodeCommand_rddig hb)
    · have hw : (0x3#4 ++ b : CmdWord).toNat = 3 * 256 + b.toNat := opcode_append_toNat 0x3#4 b
      have := b.isLt
      rw [hexec, if_pos (by omega)]
      exact State.transfer_error s (decodeCommand_digestIndex (by omega) (by omega))
  · have hr := (respOk_toNat _).trans (byte32_toNat (s.acc.word (b.toNat / 4)) (b.toNat % 4))
    exact ⟨_, exec_rddig_done hp he hb, hr, hr.trans (s.acc.digest_byte hb).symm⟩
  · rw [hexec, if_pos hb]
  · rw [hexec, if_neg (by omega), if_pos hr]

end Sys2Proof.Machine
end

section
/-! The compression of a block (spec/44_compression_round.md R109), as the exact state after each of its 82 steps: LDBLK,
eighty rounds, FOLD. -/

namespace Sys2Proof.Machine

/-! ## Steps in a row, and steps of a busy core -/

/-- The steps after the first m start where the first m end. -/
theorem run_add {s t : State} {m : Nat} (n : Nat) (h : Host.Core.run Sys2Proof.core m s = .next t) :
    Host.Core.run Sys2Proof.core (m + n) s = Host.Core.run Sys2Proof.core n t := by
  induction m generalizing s with
  | zero =>
    injection h with h
    rw [h, Nat.zero_add]
  | succ m ih =>
    rw [Nat.succ_add]
    simp only [Host.Core.run] at h ⊢
    split at h
    next hs => exact ih h
    next => cases h
    next => cases h

theorem run_one {s t : State} (h : step s = .next t) : Host.Core.run Sys2Proof.core 1 s = .next t := by
  simp only [Host.Core.run]
  rw [show Sys2Proof.core.step s = .next t from h]

/-- The states that have steps: what U5 leaves out, said of each register (R36). -/
theorem State.excluded_eq_false_iff (s : State) :
    s.excluded = false ↔
      s.ret.isReturn = true ∧ (s.phase = .padLen → 56 ≤ s.pos.toNat)
      ∧ (s.phase.compressing = true ∨ s.phase = .done → s.pos = 0#6)
      ∧ (s.phase ≠ .round → s.t = 0#7) ∧ (s.err = true ↔ s.ecode ≠ .none) := by
  cases hp : s.phase <;> cases he : s.err <;> simp [State.excluded, Phase.compressing, hp, he, and_assoc]

/-- A busy core whose host makes no move it would notice executes its micro-operation (R28). -/
theorem step_busy {s : State} (he : s.excluded = false) (hq : s.phase.quiescent = false) (hh : quietHost s.host) :
    step s = s.microStep := by
  have hmoves : busyMoves s.host = s.host := by
    rcases hh with hh | ⟨w, rest, hh⟩ <;> rw [hh] <;> rfl
  have hproceed : step s = s.proceed := by
    rcases hh with hh | ⟨w, rest, hh⟩ <;> simp [step, State.sequencerStep, he, hh]
  rw [hproceed, State.proceed, if_neg (by simp [hq]), hmoves]
  rfl

/-! ## The state after each round -/

/-- The sixteen schedule words of the block `m` from W[n] on. -/
def windowAt (m : Vector Word 16) (n : Nat) : Vector Word 16 := Vector.ofFn fun i : Fin 16 => schedule m (n + i.val)

/-- SR holds the window at W[n] when it is that window. -/
theorem holdsWindow_iff {sr m : Vector Word 16} {n : Nat} : holdsWindow sr m n ↔ sr = windowAt m n := by
  constructor
  · intro h
    ext i hi
    rw [h i hi, windowAt, Vector.getElem_ofFn]
  · rintro rfl i hi
    rw [windowAt, Vector.getElem_ofFn]

/-- The two events of round t (R138). -/
def roundEvents (h : Accumulator) (m : Vector Word 16) (t : Nat) : List Event :=
  let r := compressRounds h m (t + 1)
  [.schedule (BitVec.ofNat 7 t) (schedule m t), .round (BitVec.ofNat 7 t) r.a r.b r.c r.d r.e]

/-- The state n rounds after the LDBLK of state `s`. -/
def State.afterRounds (s : State) (n : Nat) : State :=
  { s with
    work := compressRounds s.acc s.blockWords n, sr := windowAt s.blockWords n,
    t := if n < 80 then BitVec.ofNat 7 n else 0#7, phase := if n < 80 then .round else .fold,
    trace := s.trace ++ .block s.blockWords :: (List.range n).flatMap (roundEvents s.acc s.blockWords) }

/-- The state after a FOLD that follows n rounds. -/
def State.afterFold (s : State) (n : Nat) : State :=
  { s.afterRounds n with
    acc := s.acc.add (compressRounds s.acc s.blockWords n), t := 0#7, phase := s.ret }

/-- The state after the compression of the block in the buffer of state `s`. -/
def State.compressBlock (s : State) : State := s.afterFold 80

/-! The fields are read at every number of rounds first: `rfl` at eighty would run the rounds. -/

section
variable (s : State) (n : Nat)

theorem State.afterFold_acc : (s.afterFold n).acc = s.acc.add (compressRounds s.acc s.blockWords n) := rfl
theorem State.afterFold_len : (s.afterFold n).len = s.len := rfl
theorem State.afterFold_pos : (s.afterFold n).pos = s.pos := rfl
theorem State.afterFold_phase : (s.afterFold n).phase = s.ret := rfl
theorem State.afterFold_t : (s.afterFold n).t = 0#7 := rfl
theorem State.afterFold_ret : (s.afterFold n).ret = s.ret := rfl
theorem State.afterFold_err : (s.afterFold n).err = s.err := rfl
theorem State.afterFold_ecode : (s.afterFold n).ecode = s.ecode := rfl
theorem State.afterFold_host : (s.afterFold n).host = s.host := rfl

@[simp] theorem State.compressBlock_acc : s.compressBlock.acc = compress s.acc s.blockWords := s.afterFold_acc 80
@[simp] theorem State.compressBlock_len : s.compressBlock.len = s.len := s.afterFold_len 80
@[simp] theorem State.compressBlock_pos : s.compressBlock.pos = s.pos := s.afterFold_pos 80
@[simp] theorem State.compressBlock_phase : s.compressBlock.phase = s.ret := s.afterFold_phase 80
@[simp] theorem State.compressBlock_t : s.compressBlock.t = 0#7 := s.afterFold_t 80
@[simp] theorem State.compressBlock_ret : s.compressBlock.ret = s.ret := s.afterFold_ret 80
@[simp] theorem State.compressBlock_err : s.compressBlock.err = s.err := s.afterFold_err 80
@[simp] theorem State.compressBlock_ecode : s.compressBlock.ecode = s.ecode := s.afterFold_ecode 80
@[simp] theorem State.compressBlock_host : s.compressBlock.host = s.host := s.afterFold_host 80

end

theorem State.loadBlock_eq_afterRounds (s : State) :
    s.loadBlock.emit (.block s.blockWords) = s.afterRounds 0 := by
  have hsr : s.blockWords = windowAt s.blockWords 0 := holdsWindow_iff.mp (holdsWindow_block s.blockWords)
  rw [State.afterRounds, ← hsr]
  rfl

theorem State.afterRounds_phase (s : State) {n : Nat} (hn : n < 80) : (s.afterRounds n).phase = .round := if_pos hn

theorem State.afterRounds_t (s : State) {n : Nat} (hn : n < 80) : (s.afterRounds n).t = BitVec.ofNat 7 n := if_pos hn

theorem State.afterRounds_last_phase (s : State) {n : Nat} (hn : 80 ≤ n) : (s.afterRounds n).phase = .fold :=
  if_neg (by omega)

theorem State.afterRounds_busy (s : State) (n : Nat) : (s.afterRounds n).phase.quiescent = false := by
  simp only [State.afterRounds]
  split <;> rfl

/-- ROUNDSTEP with the function and constant of round n goes from n rounds to n + 1 (R103, R109). -/
theorem State.roundStep_afterRounds (s : State) {n : Nat} (hn : n < 80) :
    (s.afterRounds n).roundStep
        (fsel (BitVec.ofNat 2 (n / 20)) (s.afterRounds n).work.b (s.afterRounds n).work.c (s.afterRounds n).work.d)
        (klut (BitVec.ofNat 2 (n / 20)))
      = s.afterRounds (n + 1) := by
  have hwin : holdsWindow (s.afterRounds n).sr s.blockWords n := holdsWindow_iff.mpr rfl
  have hsr : scheduleStep (s.afterRounds n).sr = windowAt s.blockWords (n + 1) :=
    holdsWindow_iff.mp (holdsWindow_scheduleStep hwin)
  have hw : (s.afterRounds n).sr[0] = schedule s.blockWords n := hwin 0 (by omega)
  have hwork : roundWork (s.afterRounds n).work
      (fsel (BitVec.ofNat 2 (n / 20)) (s.afterRounds n).work.b (s.afterRounds n).work.c (s.afterRounds n).work.d)
      (schedule s.blockWords n) (klut (BitVec.ofNat 2 (n / 20))) = compressRounds s.acc s.blockWords (n + 1) := rfl
  simp only [State.roundStep, hsr, hw, hwork, s.afterRounds_t hn]
  by_cases h79 : n = 79
  · have ht : BitVec.ofNat 7 n = 79#7 := by rw [h79]
    rw [if_pos ht]
    simp [State.emit, State.afterRounds, List.range_succ, roundEvents, show ¬ n + 1 < 80 by omega, hn]
  · have ht : BitVec.ofNat 7 n ≠ 79#7 := by
      rw [Ne, ← BitVec.toNat_inj, BitVec.toNat_ofNat, Nat.mod_eq_of_lt (by omega)]
      exact h79
    rw [if_neg ht]
    simp [State.emit, State.afterRounds, List.range_succ, roundEvents, show n + 1 < 80 by omega, hn, BitVec.ofNat_add]

/-- In LOAD the core has steps until the block is compressed. -/
theorem State.afterRounds_not_excluded {s : State} (he : s.excluded = false) (hp : s.phase = .load) (n : Nat) :
    (s.afterRounds n).excluded = false := by
  rw [State.excluded_eq_false_iff] at he ⊢
  obtain ⟨hret, -, hpos, -, herr⟩ := he
  refine ⟨hret, fun h => ?_, fun _ => hpos (.inl (by rw [hp]; rfl)), fun h => ?_, herr⟩
  · simp only [State.afterRounds] at h
    split at h <;> cases h
  · simp only [State.afterRounds] at h ⊢
    split at h
    · exact absurd rfl h
    · rw [if_neg ‹_›]

section
variable {s : State} (he : s.excluded = false) (hp : s.phase = .load) (hh : quietHost s.host)
include he hp hh

theorem step_load : step s = .next (s.afterRounds 0) := by
  rw [step_busy he (by rw [hp]; rfl) hh, State.microStep_load hp, ← s.loadBlock_eq_afterRounds]
  exact State.micro_selected _ hp

theorem step_afterRounds_busy (n : Nat) : step (s.afterRounds n) = (s.afterRounds n).microStep :=
  step_busy (State.afterRounds_not_excluded he hp n) (s.afterRounds_busy n) hh

theorem step_afterRounds {n : Nat} (hn : n < 80) : step (s.afterRounds n) = .next (s.afterRounds (n + 1)) := by
  have ht : (s.afterRounds n).t.toNat = n := by
    rw [s.afterRounds_t hn, BitVec.toNat_ofNat]
    omega
  rw [step_afterRounds_busy he hp hh, State.microStep_round (s.afterRounds_phase hn) (by omega), ht,
    s.roundStep_afterRounds hn]

theorem step_afterFold {n : Nat} (hn : 80 ≤ n) : step (s.afterRounds n) = .next (s.afterFold n) := by
  have hfold := s.afterRounds_last_phase hn
  have ht : (s.afterRounds n).t = 0#7 := if_neg (by omega)
  have hret : s.ret.isReturn = true := ((State.excluded_eq_false_iff s).mp he).1
  rw [step_afterRounds_busy he hp hh, State.microStep_fold hfold]
  refine (State.micro_selected _ hfold).trans ((if_pos hret).trans ?_)
  rw [State.afterFold, ← ht]
  rfl

theorem run_afterRounds {n : Nat} (hn : n ≤ 80) :
    Host.Core.run Sys2Proof.core (1 + n) s = .next (s.afterRounds n) := by
  induction n with
  | zero => exact run_one (step_load he hp hh)
  | succ n ih =>
    rw [← Nat.add_assoc, run_add 1 (ih (by omega))]
    exact run_one (step_afterRounds he hp hh (by omega))

/-- From LOAD, 82 steps compress the block (R109). -/
theorem run_compressBlock : Host.Core.run Sys2Proof.core 82 s = .next s.compressBlock := by
  rw [show 82 = 1 + 80 + 1 from rfl, run_add 1 (run_afterRounds he hp hh (Nat.le_refl 80))]
  exact run_one (step_afterFold he hp hh (Nat.le_refl 80))

end

end Sys2Proof.Machine
end

section
/-! The byte path (spec/42_block_splitter.md R83, R84): a core that has taken in a byte stream has folded the stream's
complete blocks into H and holds the rest in the buffer. One more byte keeps that, with 82 steps to compress when it
completes a block. -/

namespace Sys2Proof.Machine

/-! ## The blocks of a stream (R83, R118) -/

theorem blockOf_append {pm : List Byte} (x : List Byte) {n : Nat} (h : 64 * (n + 1) ≤ pm.length) :
    blockOf (pm ++ x) n = blockOf pm n := by
  rw [blockOf, blockOf, List.drop_append_of_le_length (by omega),
    List.take_append_of_le_length (by rw [List.length_drop]; omega)]

/-- Bytes after the first n blocks do not enter their fold. -/
theorem foldBlocks_append {pm : List Byte} (x : List Byte) {n : Nat} (h : 64 * n ≤ pm.length) :
    foldBlocks (pm ++ x) n = foldBlocks pm n := by
  induction n with
  | zero => rfl
  | succ n ih => rw [foldBlocks, foldBlocks, ih (by omega), blockOf_append x h]

theorem blockOf_getD (pm : List Byte) (n : Nat) {a : Nat} (h : a < 64) :
    (blockOf pm n).getD a 0 = pm.getD (64 * n + a) 0 := by
  simp [blockOf, List.getD_eq_getElem?_getD, h]

/-- The buffer that holds block n of a stream holds its words. -/
theorem State.blockWords_eq_wordsOf {s : State} {pm : List Byte} {n : Nat}
    (h : ∀ a, a < 64 → s.bufByte a = pm.getD (64 * n + a) 0) : s.blockWords = wordsOf (blockOf pm n) := by
  rw [State.blockWords, wordsOf]
  congr 1
  funext i
  have := i.isLt
  rw [State.blockWord, h _ (by omega), h _ (by omega), h _ (by omega), h _ (by omega), blockOf_getD _ _ (by omega),
    blockOf_getD _ _ (by omega), blockOf_getD _ _ (by omega), blockOf_getD _ _ (by omega)]

/-! ## The state of a core that has taken in a stream -/

/-- The core, with no block being compressed and no error, has taken in the byte stream `pm` since INIT or reset. -/
structure State.Streamed (s : State) (pm : List Byte) : Prop where
  acc : s.acc = foldBlocks pm (pm.length / 64)
  buf : ∀ a, a < pm.length % 64 → s.bufByte a = pm.getD (64 * (pm.length / 64) + a) 0
  pos : s.pos.toNat = pm.length % 64
  t : s.t = 0#7
  ret : s.ret.isReturn = true
  err : s.err = false
  ecode : s.ecode = .none

/-- PHASE, LEN, the response and the host's moves do not enter. -/
theorem State.Streamed.rebind {s : State} {pm : List Byte} (h : s.Streamed pm) (p : Phase) (l : BitVec 61)
    (r : Option RespWord) (moves : List HostMove) :
    ({ s with phase := p, len := l, resp := r, host := moves } : State).Streamed pm :=
  ⟨h.acc, h.buf, h.pos, h.t, h.ret, h.err, h.ecode⟩

/-- Such a core has steps: no state of U5 is one. -/
theorem State.Streamed.not_excluded {s : State} {pm : List Byte} (h : s.Streamed pm)
    (hlen : s.phase = .padLen → 56 ≤ pm.length % 64)
    (hzero : s.phase.compressing = true ∨ s.phase = .done → pm.length % 64 = 0) : s.excluded = false := by
  rw [State.excluded_eq_false_iff]
  refine ⟨h.ret, fun hp => h.pos ▸ hlen hp, fun hp => ?_, fun _ => h.t, by simp [h.err, h.ecode]⟩
  rw [← BitVec.toNat_inj, h.pos]
  exact hzero hp

theorem State.Streamed.pos_eq_63_iff {s : State} {pm : List Byte} (h : s.Streamed pm) :
    s.pos = 63#6 ↔ pm.length % 64 = 63 := by
  rw [← BitVec.toNat_inj, h.pos]
  rfl

/-! ## One more byte -/

/-- PutByte (R84) with the compression that follows it when it completes the block. -/
def State.takeByte (s : State) (b : Byte) (cont ret : Phase) : State :=
  if s.pos = 63#6 then (s.putByte b cont ret).compressBlock else s.putByte b cont ret

section
variable {s : State} {pm : List Byte} (b : Byte) (cont ret : Phase)

@[simp] theorem State.takeByte_len : (s.takeByte b cont ret).len = s.len := by
  unfold State.takeByte; split <;> simp

@[simp] theorem State.takeByte_host : (s.takeByte b cont ret).host = s.host := by
  unfold State.takeByte; split <;> simp

@[simp] theorem State.takeByte_phase : (s.takeByte b cont ret).phase = if s.pos = 63#6 then ret else cont := by
  unfold State.takeByte; split <;> simp [*]

variable (h : s.Streamed pm)
include h

/-- After the byte is written the buffer holds the stream's last bytes up to it. -/
theorem State.Streamed.bufByte_putByte {a : Nat} (ha : a < pm.length % 64 + 1) :
    (s.putByte b cont ret).bufByte a = (pm ++ [b]).getD (64 * (pm.length / 64) + a) 0 := by
  rw [State.bufByte_putByte, h.pos]
  split
  next hlast =>
    subst hlast
    rw [Nat.div_add_mod]
    simp
  next hne =>
    rw [h.buf a (by omega), List.getD_append _ _ _ _ (by omega)]

/-- The byte that completes no block. -/
theorem State.Streamed.putByte (hp : pm.length % 64 ≠ 63) : (s.putByte b cont ret).Streamed (pm ++ [b]) := by
  have hpos : s.pos ≠ 63#6 := mt h.pos_eq_63_iff.mp hp
  have hlen : (pm ++ [b]).length = pm.length + 1 := List.length_append
  have hdiv : (pm ++ [b]).length / 64 = pm.length / 64 := by omega
  have hmod : (pm ++ [b]).length % 64 = pm.length % 64 + 1 := by omega
  refine ⟨?_, fun a ha => ?_, ?_, by simp [h.t], ?_, by simp [h.err], by simp [h.ecode]⟩
  · rw [State.putByte_acc, h.acc, hdiv, foldBlocks_append _ (by omega)]
  · rw [hdiv]
    exact h.bufByte_putByte b cont ret (hmod ▸ ha)
  · have := h.pos
    rw [State.putByte_pos, hmod]
    bv_omega
  · rw [State.putByte_ret, if_neg hpos]
    exact h.ret

/-- The byte that completes a block, once the block is compressed. -/
theorem State.Streamed.putByte_compressBlock (hp : pm.length % 64 = 63) (hret : ret.isReturn = true) :
    (s.putByte b cont ret).compressBlock.Streamed (pm ++ [b]) := by
  have hpos : s.pos = 63#6 := h.pos_eq_63_iff.mpr hp
  have hlen : (pm ++ [b]).length = pm.length + 1 := List.length_append
  have hdiv : (pm ++ [b]).length / 64 = pm.length / 64 + 1 := by omega
  have hmod : (pm ++ [b]).length % 64 = 0 := by omega
  have hwords : (s.putByte b cont ret).blockWords = wordsOf (blockOf (pm ++ [b]) (pm.length / 64)) :=
    State.blockWords_eq_wordsOf fun a ha => h.bufByte_putByte b cont ret (by omega)
  refine ⟨?_, fun a ha => by omega, ?_, by simp, ?_, by simp [h.err], by simp [h.ecode]⟩
  · rw [State.compressBlock_acc, hwords, State.putByte_acc, h.acc, hdiv, foldBlocks, foldBlocks_append _ (by omega)]
  · rw [State.compressBlock_pos, State.putByte_pos, hmod, hpos]
    rfl
  · rw [State.compressBlock_ret, State.putByte_ret, if_pos hpos]
    exact hret

theorem State.Streamed.takeByte (hret : ret.isReturn = true) : (s.takeByte b cont ret).Streamed (pm ++ [b]) := by
  unfold State.takeByte
  split
  next hpos => exact h.putByte_compressBlock b cont ret (h.pos_eq_63_iff.mp hpos) hret
  next hpos => exact h.putByte b cont ret (mt h.pos_eq_63_iff.mpr hpos)

/-- The steps after PutByte: 82 when the stream gains a block, none otherwise. -/
theorem State.Streamed.run_takeByte (hret : ret.isReturn = true) (hh : quietHost s.host) :
    Host.Core.run Sys2Proof.core (82 * (if s.pos = 63#6 then 1 else 0)) (s.putByte b cont ret)
      = .next (s.takeByte b cont ret) := by
  unfold State.takeByte
  split
  next hpos =>
    have he : (s.putByte b cont ret).excluded = false := by
      rw [State.excluded_eq_false_iff]
      simp [hpos, hret, h.t, h.err, h.ecode]
    exact run_compressBlock he (by simp [hpos]) (by simpa using hh)
  next => rfl

end

end Sys2Proof.Machine
end

section
/-! A message from INIT or reset to its digest (spec/40_host_commands.md R69): each command and each micro-operation of
the padder takes the core from one stage to the next, and the stages' byte streams grow to the padded message. -/

namespace Sys2Proof.Machine

/-! ## What the host sends -/

theorem messageOf_append (xs ys : List HostMove) : messageOf (xs ++ ys) = messageOf xs ++ messageOf ys :=
  List.filterMap_append

theorem messageOf_rdstat : messageOf [.command 0x400#12] = [] := rfl

theorem messageOf_update (b : Byte) : messageOf [.command (0x1#4 ++ b)] = [b] := by
  simp [messageOf]

theorem quietHost_command (w : CmdWord) (rest : List HostMove) : quietHost (.command w :: rest) :=
  .inr ⟨w, rest, rfl⟩

theorem quietHost_of_sendsMessage {move : HostMove} (h : sendsMessage move) (rest : List HostMove) :
    quietHost (move :: rest) := by
  rcases h with rfl | ⟨b, rfl⟩
  · exact quietHost_command _ _
  · exact quietHost_command _ _

/-! ## The trailer (R75, R78) -/

theorem State.bitLen_eq (s : State) : s.bitLen = BitVec.ofNat 64 (s.len.toNat * 8) := by
  have := s.len.isLt
  apply BitVec.eq_of_toNat_eq
  rw [State.bitLen, BitVec.toNat_append, ← Nat.shiftLeft_add_eq_or_of_lt (by decide), Nat.shiftLeft_eq]
  simp
  omega

/-! ## The counts of the padding (R73) -/

theorem zeroFill_le (l : Nat) : zeroFill l ≤ 63 := by
  unfold zeroFill
  omega

theorem zeroFill_mod (l : Nat) : (l + 1 + zeroFill l) % 64 = 56 := by
  unfold zeroFill
  omega

theorem padMessage_length (m : List Byte) : (padMessage m).length = 64 * blockCount m.length := by
  have hz := zeroFill_le m.length
  have hmod := zeroFill_mod m.length
  simp only [padMessage, padBytes, trailer, blockCount, List.length_append, List.length_cons, List.length_replicate,
    List.length_map, List.length_range]
  omega

/-! ## Stages -/

/-- A step of a quiescent core with a legal command is the command executed (R62). -/
theorem step_exec {s : State} {w : CmdWord} {rest : List HostMove} {i : Instr} (he : s.excluded = false)
    (hq : s.phase.quiescent = true) (hh : s.host = .command w :: rest) (hw : decodeCommand w = .ok i) :
    step s = exec i (s.setHost rest) :=
  (step_command he hq hh).trans (State.transfer_ok _ hw)

/-- In ABSORB the host's next command is executed. -/
theorem State.Streamed.step_absorb {s : State} {pm : List Byte} {w : CmdWord} {rest : List HostMove} {i : Instr}
    (hs : s.Streamed pm) (hp : s.phase = .absorb) (hh : s.host = .command w :: rest) (hw : decodeCommand w = .ok i) :
    step s = exec i (s.setHost rest) :=
  step_exec (hs.not_excluded (by simp [hp]) (by simp [hp, Phase.compressing])) (by rw [hp]; rfl) hh hw

/-- In the padder's phases the step is the micro-operation. -/
theorem State.Streamed.step_padding {s : State} {pm : List Byte} (hs : s.Streamed pm)
    (hp : s.phase = .padTerm ∨ s.phase = .padZero ∨ (s.phase = .padLen ∧ 56 ≤ pm.length % 64))
    (hquiet : quietHost s.host) : step s = s.microStep := by
  rcases hp with hp | hp | ⟨hp, hoff⟩
  · exact step_busy (hs.not_excluded (by simp [hp]) (by simp [hp, Phase.compressing])) (by rw [hp]; rfl) hquiet
  · exact step_busy (hs.not_excluded (by simp [hp]) (by simp [hp, Phase.compressing])) (by rw [hp]; rfl) hquiet
  · exact step_busy (hs.not_excluded (fun _ => hoff) (by simp [hp, Phase.compressing])) (by rw [hp]; rfl) hquiet

theorem State.respond_putByte (s : State) (r : RespWord) (b : Byte) (cont ret : Phase) :
    (s.putByte b cont ret).respond r = (s.respond r).putByte b cont ret := by
  rw [State.putByte, State.putByte, State.respond_pos, apply_ite fun u : State => u.respond r]
  rfl

/-- From `s₀`, k steps and the 82 of each complete block lead to a core in phase `p` that counts `l` message bytes, has
taken in the stream `pm`, and has the moves `rest` of the host before it. -/
def Stage (s₀ : State) (rest : List HostMove) (l : Nat) (p : Phase) (k : Nat) (pm : List Byte) : Prop :=
  ∃ s : State, Host.Core.run Sys2Proof.core (k + 82 * (pm.length / 64)) s₀ = .next s
    ∧ s.phase = p ∧ s.len.toNat = l ∧ s.host = rest ∧ s.Streamed pm

/-- A step that takes no byte. -/
theorem Stage.step_of_run {s₀ s t : State} {rest : List HostMove} {l : Nat} {p : Phase} {k : Nat} {pm : List Byte}
    (hrun : Host.Core.run Sys2Proof.core (k + 82 * (pm.length / 64)) s₀ = .next s) (hstep : step s = .next t)
    (hp : t.phase = p) (hl : t.len.toNat = l) (hh : t.host = rest) (ht : t.Streamed pm) :
    Stage s₀ rest l p (k + 1) pm := by
  refine ⟨t, ?_, hp, hl, hh, ht⟩
  rw [Nat.add_right_comm, run_add 1 hrun]
  exact run_one hstep

/-- A step that takes a byte: PutByte from a state `u` of the same stream. -/
theorem Stage.step_putByte_of_run {s₀ s u : State} {rest : List HostMove} {l : Nat} {b : Byte} {cont ret : Phase}
    {k : Nat} {pm : List Byte} (hrun : Host.Core.run Sys2Proof.core (k + 82 * (pm.length / 64)) s₀ = .next s)
    (hstep : step s = .next (u.putByte b cont ret)) (hret : ret.isReturn = true) (hl : u.len.toNat = l)
    (hh : u.host = rest) (hu : u.Streamed pm) (hquiet : quietHost rest) :
    Stage s₀ rest l (if pm.length % 64 = 63 then ret else cont) (k + 1) (pm ++ [b]) := by
  refine ⟨u.takeByte b cont ret, ?_, ?_, by simpa using hl, by simpa using hh, hu.takeByte b cont ret hret⟩
  · have hblocks : (pm ++ [b]).length / 64 = pm.length / 64 + if u.pos = 63#6 then 1 else 0 := by
      rw [List.length_append, List.length_singleton]
      simp only [hu.pos_eq_63_iff]
      split <;> omega
    rw [hblocks, show ∀ c, k + 1 + 82 * (pm.length / 64 + c) = k + 82 * (pm.length / 64) + (1 + 82 * c) by omega,
      run_add _ hrun, run_add _ (run_one hstep)]
    exact hu.run_takeByte b cont ret hret (hh ▸ hquiet)
  · simp [hu.pos_eq_63_iff]

section
variable {s₀ : State} {rest : List HostMove} {l k : Nat} {pm : List Byte}

/-- Reset begins with no byte taken (R142). -/
theorem Stage.ofReset (hh : s₀.host = .reset :: rest) : Stage s₀ rest 0 .absorb 1 [] := by
  have hstep : step s₀ = .next (s₀.setHost rest).resetEvent := by simp [step, State.sequencerStep, hh]
  exact ⟨_, run_one hstep, rfl, rfl, rfl, rfl, nofun, rfl, rfl, rfl, rfl, rfl⟩

/-- INIT begins with no byte taken (R63). -/
theorem Stage.ofInit (he : s₀.excluded = false) (hq : s₀.phase.quiescent = true)
    (hh : s₀.host = .command 0x000#12 :: rest) : Stage s₀ rest 0 .absorb 1 [] := by
  have hstep := (step_exec he hq hh decodeCommand_init).trans (exec_init hq)
  exact ⟨_, run_one hstep, rfl, rfl, rfl, rfl, nofun, rfl, rfl, rfl, rfl, rfl⟩

/-- RDSTAT takes no byte (R67). -/
theorem Stage.rdstat (h : Stage s₀ (.command 0x400#12 :: rest) l .absorb k pm) :
    Stage s₀ rest l .absorb (k + 1) pm := by
  obtain ⟨s, hrun, hp, hl, hh, hs⟩ := h
  have hq : s.phase.quiescent = true := by rw [hp]; rfl
  have hstep := (hs.step_absorb hp hh decodeCommand_rdstat).trans (exec_rdstat hq)
  exact Stage.step_of_run hrun hstep hp hl rfl (hs.rebind ..)

/-- UPDATE takes its byte (R64). -/
theorem Stage.update {b : Byte} (h : Stage s₀ (.command (0x1#4 ++ b) :: rest) l .absorb k pm) (hl : l + 1 < 2 ^ 61)
    (hquiet : quietHost rest) : Stage s₀ rest (l + 1) .absorb (k + 1) (pm ++ [b]) := by
  obtain ⟨s, hrun, hp, hlen, hh, hs⟩ := h
  have hq : s.phase.quiescent = true := by rw [hp]; rfl
  have hstep := hs.step_absorb hp hh (decodeCommand_update b)
  rw [exec_update b (s := s.setHost rest) hq, if_neg (by simp [hs.err, hp]), if_neg (by simp [hlen]; omega),
    State.respond_putByte] at hstep
  have hsucc : (s.len + 1#61).toNat = l + 1 := by bv_omega
  simpa using Stage.step_putByte_of_run hrun hstep rfl hsucc rfl (hs.rebind ..) hquiet

/-- FINAL takes no byte; the terminator is due (R65). -/
theorem Stage.final (h : Stage s₀ (.command 0x200#12 :: rest) l .absorb k pm) :
    Stage s₀ rest l .padTerm (k + 1) pm := by
  obtain ⟨s, hrun, hp, hl, hh, hs⟩ := h
  have hq : s.phase.quiescent = true := by rw [hp]; rfl
  have hstep := hs.step_absorb hp hh decodeCommand_final
  rw [exec_final (s := s.setHost rest) hq, if_neg (by simp [hs.err, hp])] at hstep
  exact Stage.step_of_run hrun hstep rfl hl rfl (hs.rebind ..)

/-- PADT takes the terminator (R76). -/
theorem Stage.padt (h : Stage s₀ rest l .padTerm k pm) (hquiet : quietHost rest) :
    Stage s₀ rest l .padZero (k + 1) (pm ++ [0x80#8]) := by
  obtain ⟨s, hrun, hp, hl, hh, hs⟩ := h
  have hstep : step s = .next (s.putByte 0x80#8 .padZero .padZero) := by
    rw [hs.step_padding (.inl hp) (hh ▸ hquiet), State.microStep_padTerm hp]
    exact State.micro_selected _ hp
  simpa using Stage.step_putByte_of_run hrun hstep rfl hl hh hs hquiet

/-- In PAD_ZERO the step is PADZ (R77). -/
theorem State.Streamed.step_padZero {s : State} (hs : s.Streamed pm) (hp : s.phase = .padZero)
    (hquiet : quietHost s.host) : step s = .next
      (if s.pos = 56#6 then { s with phase := .padLen } else s.putByte 0x00#8 .padZero .padZero) := by
  rw [hs.step_padding (.inr (.inl hp)) hquiet, State.microStep_padZero hp]
  exact State.micro_selected _ hp

theorem State.Streamed.pos_eq_56_iff {s : State} (hs : s.Streamed pm) : s.pos = 56#6 ↔ pm.length % 64 = 56 := by
  rw [← BitVec.toNat_inj, hs.pos]
  rfl

/-- PADZ takes a zero byte away from offset 56 (R77). -/
theorem Stage.padz (h : Stage s₀ rest l .padZero k pm) (hoff : pm.length % 64 ≠ 56) (hquiet : quietHost rest) :
    Stage s₀ rest l .padZero (k + 1) (pm ++ [0x00#8]) := by
  obtain ⟨s, hrun, hp, hl, hh, hs⟩ := h
  have hstep := hs.step_padZero hp (hh ▸ hquiet)
  rw [if_neg (mt hs.pos_eq_56_iff.mp hoff)] at hstep
  simpa using Stage.step_putByte_of_run hrun hstep rfl hl hh hs hquiet

/-- PADZ takes no byte at offset 56; the trailer is due (R77). -/
theorem Stage.padz_end (h : Stage s₀ rest l .padZero k pm) (hoff : pm.length % 64 = 56) (hquiet : quietHost rest) :
    Stage s₀ rest l .padLen (k + 1) pm := by
  obtain ⟨s, hrun, hp, hl, hh, hs⟩ := h
  have hstep := hs.step_padZero hp (hh ▸ hquiet)
  rw [if_pos (hs.pos_eq_56_iff.mpr hoff)] at hstep
  exact Stage.step_of_run hrun hstep rfl hl hh (hs.rebind ..)

/-- PADL takes the trailer byte of its offset; the one at offset 63 is the last (R78). -/
theorem Stage.padl (h : Stage s₀ rest l .padLen k pm) (hoff : 56 ≤ pm.length % 64) (hquiet : quietHost rest) :
    Stage s₀ rest l (if pm.length % 64 = 63 then .done else .padLen) (k + 1)
      (pm ++ [byte64 (BitVec.ofNat 64 (l * 8)) (pm.length % 64 - 56)]) := by
  obtain ⟨s, hrun, hp, hl, hh, hs⟩ := h
  have hstep : step s = .next (s.putByte s.trailerByte .padLen .done) := by
    rw [hs.step_padding (.inr (.inr ⟨hp, hoff⟩)) (hh ▸ hquiet), State.microStep_padLen hp]
    exact (State.micro_selected _ hp).trans (if_neg (by rw [hs.pos]; omega))
  rw [State.trailerByte, State.bitLen_eq, hl, hs.pos] at hstep
  exact Stage.step_putByte_of_run hrun hstep rfl hl hh hs hquiet

/-! ## Runs of stages -/

/-- The commands of a message take its bytes, in order (R24, R64, R67). -/
theorem Stage.message {moves : List HostMove} (hmoves : ∀ move ∈ moves, sendsMessage move)
    (hlen : (messageOf moves).length < 2 ^ 61) (hquiet : quietHost rest)
    (h : Stage s₀ (moves ++ rest) 0 .absorb k []) :
    Stage s₀ rest (messageOf moves).length .absorb (k + moves.length) (messageOf moves) := by
  induction moves using List.reverseRecOn generalizing rest with
  | nil => exact h
  | append_singleton moves move ih =>
    have hmove : sendsMessage move := hmoves move (by simp)
    have hmsg := messageOf_append moves [move]
    rw [List.append_assoc] at h
    rw [hmsg, List.length_append] at hlen
    have hbefore := ih (fun m hm => hmoves m (by simp [hm])) (by omega) (quietHost_of_sendsMessage hmove rest) h
    rcases hmove with rfl | ⟨b, rfl⟩
    · rw [hmsg, messageOf_rdstat, List.append_nil, List.length_append]
      exact hbefore.rdstat
    · rw [messageOf_update] at hlen
      rw [hmsg, messageOf_update, List.length_append, List.length_append]
      exact hbefore.update hlen hquiet

/-- Zero fill up to offset 56 (R77, R80). -/
theorem Stage.zeroBytes {n : Nat} (h : Stage s₀ rest l .padZero k pm) (hn : n ≤ 63) (hoff : (pm.length + n) % 64 = 56)
    (hquiet : quietHost rest) : Stage s₀ rest l .padZero (k + n) (pm ++ List.replicate n 0x00#8) := by
  have fill (j : Nat) (hj : j ≤ n) : Stage s₀ rest l .padZero (k + j) (pm ++ List.replicate j 0x00#8) := by
    induction j with
    | zero => simpa using h
    | succ j ih =>
      rw [List.replicate_succ', ← List.append_assoc]
      exact (ih (by omega)).padz (by rw [List.length_append, List.length_replicate]; omega) hquiet
  exact fill n (Nat.le_refl n)

/-- The eight trailer bytes, from offset 56 (R75, R78). -/
theorem Stage.trailerBytes (h : Stage s₀ rest l .padLen k pm) (hoff : pm.length % 64 = 56) (hquiet : quietHost rest) :
    Stage s₀ rest l .done (k + 8) (pm ++ trailer l) := by
  have fill (j : Nat) (hj : j ≤ 8) : Stage s₀ rest l (if j = 8 then .done else .padLen) (k + j)
      (pm ++ (List.range j).map (byte64 (BitVec.ofNat 64 (l * 8)))) := by
    induction j with
    | zero => simpa using h
    | succ j ih =>
      have hmod : (pm ++ (List.range j).map (byte64 (BitVec.ofNat 64 (l * 8)))).length % 64 = 56 + j := by
        rw [List.length_append, List.length_map, List.length_range]
        omega
      have hbefore := ih (by omega)
      rw [if_neg (by omega)] at hbefore
      have hafter := hbefore.padl (by omega) hquiet
      rw [hmod, Nat.add_sub_cancel_left, List.append_assoc] at hafter
      rw [List.range_succ, List.map_append]
      simpa [show 56 + j = 63 ↔ j = 7 by omega, Nat.add_assoc] using hafter
  exact fill 8 (Nat.le_refl 8)

/-- The padder takes PADBYTES(L) after a message of L bytes (R74, R80). -/
theorem Stage.padding {m : List Byte} (h : Stage s₀ rest m.length .padTerm k m) (hquiet : quietHost rest) :
    Stage s₀ rest m.length .done (k + zeroFill m.length + 10) (padMessage m) := by
  have hmod := zeroFill_mod m.length
  have hoff : (m ++ [0x80#8] ++ List.replicate (zeroFill m.length) 0x00#8).length % 64 = 56 := by
    rwa [List.length_append, List.length_append, List.length_replicate]
  have hzeros := (h.padt hquiet).zeroBytes (zeroFill_le m.length) (by simpa using hmod) hquiet
  have htrailer := (hzeros.padz_end hoff hquiet).trailerBytes hoff hquiet
  have hbytes : padMessage m = m ++ [0x80#8] ++ List.replicate (zeroFill m.length) 0x00#8 ++ trailer m.length := by
    simp [padMessage, padBytes]
  rw [hbytes, show k + zeroFill m.length + 10 = k + 1 + zeroFill m.length + 1 + 8 by omega]
  exact htrailer

end

/-! ## The digest -/

/-- Byte i of a digest (R116). -/
theorem Accumulator.digestBytes_getElem? (h : Accumulator) {i : Nat} (hi : i < 20) :
    h.digestBytes[i]? = some (h.digestByte i) := by
  simp [Accumulator.digestBytes, hi]

/-- Settles O58: the message's stages from INIT or reset, then the padder's, end in DONE with the padded message folded
into H. -/
theorem digestOfTheMessage : Obligations.DigestOfTheMessage := by
  intro s start moves rest hstart hmoves hlen hquiet hh
  have hbegin : Stage s (moves ++ .command 0x200#12 :: rest) 0 .absorb 1 [] := by
    rcases hstart with rfl | ⟨rfl, hq, he⟩
    · exact .ofReset hh
    · exact .ofInit he hq hh
  have hmessage := hbegin.message hmoves hlen (quietHost_command _ rest)
  obtain ⟨t, hrun, hp, hl, hhost, ht⟩ := hmessage.final.padding hquiet
  have hblocks : (padMessage (messageOf moves)).length / 64 = blockCount (messageOf moves).length := by
    rw [padMessage_length, Nat.mul_div_cancel_left _ (by decide)]
  have hacc := ht.acc
  rw [hblocks] at hrun hacc
  refine ⟨t, ?_, hp, by simp [State.dv, hp, ht.err], hl, hhost, fun i hi => ⟨t.acc.digestByte i, ?_, ?_⟩⟩
  · rw [← hrun]
    congr 1
    omega
  · rw [sha1, ← hacc, Accumulator.digestBytes_getElem? _ hi]
  · have hindex : (BitVec.ofNat 8 i).toNat = i := by
      rw [BitVec.toNat_ofNat]
      omega
    have hread := exec_rddig_done (b := BitVec.ofNat 8 i) hp ht.err (by omega)
    rw [hindex] at hread
    exact hread

end Sys2Proof.Machine
end

section
/-! The counts of the padding and the bytes of the padded message (spec/41_padder.md R73 to R75). -/

namespace Sys2Proof.Machine

/-! ## The counts of the padding (R73) -/

theorem zeroFill_eq_emod (l : Nat) : (zeroFill l : Int) = (55 - (l : Int)) % 64 :=
  Int.toNat_of_nonneg (Int.emod_nonneg _ (by decide))

theorem mul_blockCount (l : Nat) : 64 * blockCount l = paddedLength l := by
  unfold blockCount paddedLength
  omega

/-- The message, the terminator, the zero fill and the trailer fill the blocks. -/
theorem add_padCount (l : Nat) : l + padCount l = paddedLength l := by
  have hle := zeroFill_le l
  have hmod := zeroFill_mod l
  unfold padCount paddedLength
  omega

theorem paddedLength_le_of_multiple (l n : Nat) (hn : n % 64 = 0) (hle : l + 9 ≤ n) : paddedLength l ≤ n := by
  unfold paddedLength
  omega

/-- Settles O31: L + P(L) fills NBLK(L) blocks of 64 bytes, and Z(L) = P(L) - 9 is at most 63. -/
theorem paddedLength_isLeastMultiple : Obligations.PaddedLength := by
  intro l
  have hfill := zeroFill_le l
  have hmod := zeroFill_mod l
  have hpad : padCount l = zeroFill l + 9 := rfl
  have hlen := add_padCount l
  have hblocks := mul_blockCount l
  have hcount : blockCount l = (l + 8) / 64 + 1 := rfl
  refine ⟨?multiple, ?large, paddedLength_le_of_multiple l, ?padCount, ?padLow, ?padHigh, ?at55, ?at56, hpad,
    zeroFill_eq_emod l, hfill, hmod, hblocks, hcount, ?blockPos⟩
  all_goals omega

/-! ## The bytes of the padded message (R74, R75) -/

theorem byte64_toNat (v : BitVec 64) {j : Nat} (hj : j < 8) :
    (byte64 v j).toNat = v.toNat / 2 ^ (8 * (7 - j)) % 256 := by
  rw [byte64, BitVec.extractLsb'_toNat, Nat.shiftRight_eq_div_pow, show 56 - 8 * j = 8 * (7 - j) by omega]

/-- Byte j of the trailer is byte j of L · 8, the most significant first, while L · 8 fits in 64 bits. -/
theorem trailer_getElem? {l j : Nat} (hl : l < 2 ^ 61) (hj : j < 8) :
    ((trailer l)[j]?).map BitVec.toNat = some (l * 8 / 2 ^ (8 * (7 - j)) % 256) := by
  have hfits : (BitVec.ofNat 64 (l * 8)).toNat = l * 8 := by
    rw [BitVec.toNat_ofNat]
    omega
  simp [trailer, hj, byte64_toNat, hfits]

/-- The bytes after the message are the padding bytes. -/
theorem padMessage_getElem?_add (m : List Byte) (i : Nat) : (padMessage m)[m.length + i]? = (padBytes m.length)[i]? := by
  rw [padMessage, List.getElem?_append_right (by omega), Nat.add_sub_cancel_left]

theorem padBytes_getElem?_zeroFill {l i : Nat} (h1 : 1 ≤ i) (hi : i ≤ zeroFill l) : (padBytes l)[i]? = some 0x00#8 := by
  obtain ⟨k, rfl⟩ : ∃ k, i = k + 1 := ⟨i - 1, by omega⟩
  rw [padBytes, List.getElem?_cons_succ, List.getElem?_append_left (by rw [List.length_replicate]; omega),
    List.getElem?_replicate, if_pos (by omega)]

theorem padBytes_getElem?_trailer (l j : Nat) : (padBytes l)[zeroFill l + 1 + j]? = (trailer l)[j]? := by
  rw [padBytes, show zeroFill l + 1 + j = zeroFill l + j + 1 by omega, List.getElem?_cons_succ,
    List.getElem?_append_right (by rw [List.length_replicate]; omega), List.length_replicate, Nat.add_sub_cancel_left]

/-- Settles O32: the bytes after the message are PADBYTES(L), the terminator, the zero fill and the trailer. -/
theorem paddedMessageShape : Obligations.PaddedMessageShape := by
  intro m hm
  have hlen : (padMessage m).length = paddedLength m.length :=
    (padMessage_length m).trans (mul_blockCount m.length)
  refine ⟨hlen, List.take_left, padMessage_getElem?_add m 0, fun i h1 hi => ?zeros, fun j hj => ?trailer⟩
  case zeros => rw [padMessage_getElem?_add, padBytes_getElem?_zeroFill h1 hi]
  case trailer =>
    have hoff : (padMessage m).length - 8 + j = m.length + (zeroFill m.length + 1 + j) := by
      rw [hlen, ← add_padCount, padCount]
      omega
    rw [hoff, padMessage_getElem?_add, padBytes_getElem?_trailer, trailer_getElem? hm hj]

end Sys2Proof.Machine
end

section
/-! The block splitter's LDBLK (spec/42_block_splitter.md R86, R87). -/

namespace Sys2Proof.Machine

/-- A byte after a bit string, as a number. -/
theorem append_byte_toNat {n : Nat} (x : BitVec n) (b : Byte) : (x ++ b).toNat = x.toNat * 2 ^ 8 + b.toNat := by
  rw [BitVec.toNat_append, ← Nat.shiftLeft_add_eq_or_of_lt b.isLt, Nat.shiftLeft_eq]

/-- The first byte is the most significant (R12). -/
theorem be32_toNat (b0 b1 b2 b3 : Byte) :
    (be32 b0 b1 b2 b3).toNat = 2 ^ 24 * b0.toNat + 2 ^ 16 * b1.toNat + 2 ^ 8 * b2.toNat + b3.toNat := by
  rw [be32, append_byte_toNat, append_byte_toNat, append_byte_toNat]
  omega

theorem State.blockWords_getElem (s : State) {i : Nat} (hi : i < 16) : s.blockWords[i] = s.blockWord i := by
  rw [State.blockWords, Vector.getElem_ofFn]

/-- In LOAD, LDBLK loads the block and emits it (R86, R87). -/
theorem exec_ldblk {s : State} (hp : s.phase = .load) :
    exec .ldblk s = .next (s.loadBlock.emit (.block s.blockWords)) :=
  State.micro_selected _ hp

/-- Settles O34: SR is the sixteen words of the block, each the big-endian word of its four bytes; the other registers
are loaded or kept as they stand in `State.loadBlock`. -/
theorem ldblkLoadsTheBlock : Obligations.LdblkLoadsTheBlock := by
  intro s hp
  refine ⟨_, exec_ldblk hp, fun i hi => ?words, rfl, rfl, rfl, rfl, rfl, rfl, State.bufByte_congr rfl rfl, ⟨rfl, rfl⟩,
    rfl, ⟨rfl, rfl⟩, rfl, rfl, rfl⟩
  case words =>
    calc (s.blockWords[i]).toNat
      _ = (s.blockWord i).toNat := by rw [s.blockWords_getElem hi]
      _ = _ := be32_toNat ..

end Sys2Proof.Machine
end

section
/-! The schedule's recurrence (spec/43_message_schedule.md R90, unbounded as R91 says), read back from the later word. -/

namespace Sys2Proof.Machine

/-- Settles O42: below 16 the schedule is the block's words; from 16 on it is the recurrence of `schedule_add_sixteen`,
whose taps at t - 16 plus 13, 8, 2 and 0 are the offsets 3, 8, 14 and 16. -/
theorem scheduleRecurrence : Obligations.ScheduleRecurrence := by
  refine fun m => ⟨fun t h => schedule_of_lt m h, fun t ht => ?recurrence⟩
  case recurrence =>
    obtain ⟨n, rfl⟩ := Nat.exists_eq_add_of_le' ht
    exact schedule_add_sixteen m n

end Sys2Proof.Machine
end

section
/-! The function unit (spec/44_compression_round.md R98, R99): each function works bit by bit, so each of its forms is
an identity of three Booleans. -/

namespace Sys2Proof.Machine

/-! ## The identities of a bit -/

theorem choice_eq_ite : ∀ b c d : Bool, (b && c || !b && d) = if b then c else d := by decide

theorem choice_eq_xor : ∀ b c d : Bool, (b && c || !b && d) = ((b && c) ^^ (!b && d)) := by decide

theorem choice_eq_xor_and : ∀ b c d : Bool, (b && c || !b && d) = (d ^^ (b && (c ^^ d))) := by decide

theorem majority_eq_count : ∀ b c d : Bool,
    (b && c || b && d || c && d) = decide (2 ≤ b.toNat + c.toNat + d.toNat) := by decide

theorem majority_eq_xor : ∀ b c d : Bool,
    (b && c || b && d || c && d) = ((b && c) ^^ (b && d) ^^ (c && d)) := by decide

theorem majority_eq_or_and : ∀ b c d : Bool,
    (b && c || b && d || c && d) = (b && c || d && (b || c)) := by decide

/-! ## The functions by their bits (R98) -/

theorem fch_getLsbD (b c d : Word) {k : Nat} (hk : k < 32) :
    (fch b c d).getLsbD k = (b.getLsbD k && c.getLsbD k || !b.getLsbD k && d.getLsbD k) := by
  simp [fch, hk]

theorem fpar_getLsbD (b c d : Word) (k : Nat) :
    (fpar b c d).getLsbD k = ((b.getLsbD k ^^ c.getLsbD k) ^^ d.getLsbD k) := by
  simp [fpar]

theorem fmaj_getLsbD (b c d : Word) (k : Nat) :
    (fmaj b c d).getLsbD k
      = (b.getLsbD k && c.getLsbD k || b.getLsbD k && d.getLsbD k || c.getLsbD k && d.getLsbD k) := by
  simp [fmaj]

/-- Settles O40: the bits of each function, and two words with the same bits are the same (R99). -/
theorem functionUnit : Obligations.FunctionUnit := by
  intro b c d
  refine ⟨fun k hk => ⟨?choice, fpar_getLsbD b c d k, ?majority⟩, ?fchXor, ?fchMux, ?fmajXor, ?fmajOr⟩
  case choice => rw [fch_getLsbD b c d hk, choice_eq_ite]
  case majority => rw [fmaj_getLsbD, majority_eq_count]
  all_goals refine BitVec.eq_of_getLsbD_eq fun i hi => ?_
  case fchXor =>
    rw [fch_getLsbD b c d hi, choice_eq_xor]
    simp [hi]
  case fchMux =>
    rw [fch_getLsbD b c d hi, choice_eq_xor_and]
    simp
  case fmajXor =>
    rw [fmaj_getLsbD, majority_eq_xor]
    simp
  case fmajOr =>
    rw [fmaj_getLsbD, majority_eq_or_and]
    simp

end Sys2Proof.Machine
end

section
/-! The round micro-operations RND0 to RND3 (spec/44_compression_round.md R102 to R107): ROUNDSTEP as one update of the
state, read as a sum and a rotation, and the SEL of each range of T. -/

namespace Sys2Proof.Machine

/-- A left rotation takes bit i from n places below, around the word (R11). -/
theorem rotl32_getLsbD (x : Word) {n i : Nat} (hn : n < 32) (hi : i < 32) :
    (rotl32 x n).getLsbD i = x.getLsbD ((i + 32 - n) % 32) := by
  have hrot : rotl32 x n = x.rotateLeft n := by
    rw [BitVec.rotateLeft_def, Nat.mod_eq_of_lt hn]
    rfl
  rw [hrot, BitVec.getLsbD_rotateLeft, Nat.mod_eq_of_lt hn]
  rcases Nat.lt_or_ge i n with hlt | hge
  · rw [decide_eq_true hlt, cond_true, show (i + 32 - n) % 32 = 32 - n + i by omega]
  · rw [decide_eq_false (Nat.not_lt.mpr hge), cond_false, decide_eq_true hi, Bool.true_and,
      show (i + 32 - n) % 32 = i - n by omega]

/-- The five-operand sum as a number (R102). -/
theorem roundSum_toNat (r : WorkingState) (f w k : Word) :
    (roundSum r f w k).toNat =
      ((rotl32 r.a 5).toNat + f.toNat + r.e.toNat + w.toNat + k.toNat) % 2 ^ 32 := by
  simp [roundSum, BitVec.toNat_add]

/-- ROUNDSTEP's writes, each field once (R103). -/
theorem State.roundStep_eq (s : State) (f k : Word) :
    s.roundStep f k =
      let r := roundWork s.work f s.sr[0] k
      { s with
        work := r, sr := scheduleStep s.sr,
        trace := s.trace ++ [.schedule s.t s.sr[0], .round s.t r.a r.b r.c r.d r.e],
        t := if s.t = 79#7 then 0#7 else s.t + 1#7,
        phase := if s.t = 79#7 then .fold else s.phase } := by
  unfold State.roundStep
  dsimp only
  split <;> simp [State.emit]

theorem State.roundResult_roundStep {s : State} (f k : Word) (hp : s.phase = .round) :
    s.roundResult (s.roundStep f k) f k.toNat := by
  rw [State.roundStep_eq, hp]
  refine ⟨roundSum_toNat .., rfl, fun i hi => ?rotated, rfl, rfl, fun i hi => ?shifted, ?entered, rfl, rfl, rfl⟩
  case rotated =>
    rw [show i + 2 = i + 32 - 30 by omega]
    exact rotl32_getLsbD s.work.b (by decide) hi
  case shifted => simp [scheduleStep, hi]
  case entered => simp [scheduleStep, scheduleWord]

theorem State.roundFrame_roundStep (s : State) (f k : Word) : s.roundFrame (s.roundStep f k) := by
  rw [State.roundStep_eq]
  exact ⟨rfl, State.bufByte_congr rfl rfl, ⟨rfl, rfl⟩, rfl, ⟨rfl, rfl⟩, rfl, rfl, rfl⟩

/-- The twenty rounds from T = 20 k on have SEL k (R29). -/
theorem sel_of_range {t : BitVec 7} {k : BitVec 2} (hlo : 20 * k.toNat ≤ t.toNat)
    (hhi : t.toNat ≤ 20 * k.toNat + 19) : sel t = some k := by
  have hk := k.isLt
  have hdiv : t.toNat / 20 = k.toNat := by omega
  rw [sel_eq_div (by omega), hdiv, BitVec.ofNat_toNat, BitVec.setWidth_eq]

/-- A round micro-operation with T in its range completes, as a round with its function and constant (R103). -/
theorem State.roundMicro_isARound {s : State} (k : BitVec 2) (f c : Word) (hp : s.phase = .round)
    (hlo : 20 * k.toNat ≤ s.t.toNat) (hhi : s.t.toNat ≤ 20 * k.toNat + 19) :
    ∃ t, s.roundMicro k (s.roundStep f c) = .next t ∧ s.roundResult t f c.toNat ∧ s.roundFrame t :=
  ⟨_, State.roundMicro_selected _ hp (sel_of_range hlo hhi), State.roundResult_roundStep f c hp,
    s.roundFrame_roundStep f c⟩

/-- Settles O35: T in 0 to 19 has SEL 0, which picks FCH and 0x5A827999 (R100, R101). -/
theorem rnd0IsARound : Obligations.Rnd0IsARound :=
  fun _ hp hhi => State.roundMicro_isARound 0 _ _ hp (Nat.zero_le _) hhi

/-- Settles O36: T in 20 to 39 has SEL 1, which picks FPAR and 0x6ED9EBA1 (R100, R101). -/
theorem rnd1IsARound : Obligations.Rnd1IsARound :=
  fun _ hp hlo hhi => State.roundMicro_isARound 1 _ _ hp hlo hhi

/-- Settles O37: T in 40 to 59 has SEL 2, which picks FMAJ and 0x8F1BBCDC (R100, R101). -/
theorem rnd2IsARound : Obligations.Rnd2IsARound :=
  fun _ hp hlo hhi => State.roundMicro_isARound 2 _ _ hp hlo hhi

/-- Settles O38: T in 60 to 79 has SEL 3, which picks FPAR and 0xCA62C1D6 (R100, R101). -/
theorem rnd3IsARound : Obligations.Rnd3IsARound :=
  fun _ hp hlo hhi => State.roundMicro_isARound 3 _ _ hp hlo hhi

end Sys2Proof.Machine
end

section
/-! COMPRESS by the machine (spec/44_compression_round.md R109): what `State.compressBlock` leaves, and that a state of
the invariant has the steps to it. -/

namespace Sys2Proof.Machine

/-- A state of the invariant is none of those U5 leaves out. -/
theorem State.inv.not_excluded {s : State} (h : s.inv) : s.excluded = false := by
  obtain ⟨⟨ht, -, hret, -, hdone, hpadLen, hpos, herr⟩, -, -⟩ := h
  refine (State.excluded_eq_false_iff s).mpr ⟨hret, hpadLen, fun hp => hp.elim hpos hdone, ht, ?_⟩
  rw [Ne, ← herr, Bool.not_eq_false]

theorem State.afterFold_buf (s : State) (n : Nat) : (s.afterFold n).buf = s.buf := rfl
theorem State.afterFold_resp (s : State) (n : Nat) : (s.afterFold n).resp = s.resp := rfl
theorem State.afterFold_resets (s : State) (n : Nat) : (s.afterFold n).resets = s.resets := rfl

@[simp] theorem State.compressBlock_buf (s : State) : s.compressBlock.buf = s.buf := s.afterFold_buf 80
@[simp] theorem State.compressBlock_resp (s : State) : s.compressBlock.resp = s.resp := s.afterFold_resp 80
@[simp] theorem State.compressBlock_resets (s : State) : s.compressBlock.resets = s.resets := s.afterFold_resets 80

/-- Settles O45: the 82 steps end in `State.compressBlock`, which writes H, PHASE and T and keeps the rest. -/
theorem compressionOfABlock : Obligations.CompressionOfABlock := by
  intro s hinv hp hquiet
  exact ⟨s.compressBlock, run_compressBlock hinv.not_excluded hp hquiet, s.compressBlock_acc, s.compressBlock_phase,
    s.compressBlock_t, ⟨s.compressBlock_len, s.compressBlock_pos⟩, s.compressBlock_buf,
    State.bufByte_congr s.compressBlock_buf s.compressBlock_resets, s.compressBlock_ret,
    ⟨s.compressBlock_err, s.compressBlock_ecode⟩, s.compressBlock_resp, s.compressBlock_host, s.compressBlock_resets⟩

end Sys2Proof.Machine
end

section
/-! The digest accumulator (spec/45_digest_accumulator.md R115). -/

namespace Sys2Proof.Machine

/-- The three phases RET takes (R30). -/
theorem Phase.isReturn_iff {p : Phase} : p.isReturn = true ↔ p = .absorb ∨ p = .padZero ∨ p = .done := by
  simp [Phase.isReturn, or_assoc]

/-- FOLD completes when RET is a phase it can go to (R115). -/
theorem State.exec_fold {s : State} (hp : s.phase = .fold) (hret : s.ret.isReturn = true) :
    exec .fold s = .next { s with acc := s.acc.add s.work, phase := s.ret } :=
  (State.micro_selected _ hp).trans (if_pos hret)

/-- Settles O47: FOLD writes H and PHASE and nothing else, and each of the five sums is one word addition, so modulo
2^32. -/
theorem foldAddsIntoAccumulator : Obligations.FoldAddsIntoAccumulator := by
  intro s hp hret
  exact ⟨_, State.exec_fold hp (Phase.isReturn_iff.mpr hret),
    BitVec.toNat_add .., BitVec.toNat_add .., BitVec.toNat_add .., BitVec.toNat_add .., BitVec.toNat_add ..,
    rfl, rfl, ⟨rfl, rfl⟩, rfl, State.bufByte_congr rfl rfl, ⟨rfl, rfl⟩, rfl, rfl, ⟨rfl, rfl⟩, rfl, rfl, ⟨rfl, rfl⟩⟩

end Sys2Proof.Machine
end

section
/-! Exceptions (spec/60_exceptions.md R125 to R128): a command that fails a check is exception entry, the error state is
left only by INIT or reset, and a micro-operation leaves the status registers and the ports. -/

namespace Sys2Proof.Machine

/-! ## Exception entry (R125, R127) -/

/-- A host command is admission, then its own effect (R62). -/
theorem exec_isCommand {i : Instr} (hi : i.isCommand = true) (s : State) :
    ∃ effect, exec i s = s.command i effect := by
  cases i with
  | init | update | final | rddig | rdstat => exact ⟨_, rfl⟩
  | padt | padz | padl | ldblk | rnd0 | rnd1 | rnd2 | rnd3 | fold => cases hi

/-- A host command that fails a check raises that check's exception. -/
theorem exec_raises {s : State} {i : Instr} {c : Cause} (hq : s.phase.quiescent = true) (hi : i.isCommand = true)
    (ha : s.admission i = some c) : exec i s = .next (s.raise c) := by
  obtain ⟨effect, hexec⟩ := exec_isCommand hi s
  rw [hexec, State.command_raises effect hq ha]

/-- Settles O26: the command is exception entry, which writes ERR, ECODE and the response only. -/
theorem exceptionEntry : Obligations.ExceptionEntry := by
  intro s i c hq hi ha
  have hcode : (s.raise c).ecode.code = if s.err then s.ecode.code else c.code := by
    rw [State.raise_ecode, apply_ite Cause.code]
  exact ⟨s.raise c, exec_raises hq hi ha, s.raise_err c, hcode, s.raise_resp c, s.raise_acc c,
    ⟨s.raise_work c, s.raise_sr c⟩, s.raise_buf c, State.bufByte_congr (s.raise_buf c) (s.raise_resets c),
    ⟨s.raise_len c, s.raise_pos c⟩, ⟨s.raise_phase c, s.raise_t c, s.raise_ret c⟩, s.raise_trace c,
    ⟨s.raise_host c, s.raise_resets c⟩⟩

/-! ## Micro-operations (R128) -/

/-- ERR, ECODE, the response, the host's moves and the count of resets are the same. -/
def State.samePorts (s t : State) : Prop := s.sameStatus t ∧ t.resp = s.resp ∧ s.sameInputs t

theorem State.samePorts_putByte (s : State) (b : Byte) (cont ret : Phase) : s.samePorts (s.putByte b cont ret) :=
  ⟨⟨s.putByte_err .., s.putByte_ecode ..⟩, s.putByte_resp .., ⟨s.putByte_host .., s.putByte_resets ..⟩⟩

theorem State.samePorts_roundStep (s : State) (f k : Word) : s.samePorts (s.roundStep f k) := by
  obtain ⟨-, -, -, -, hstatus, hresp, hinputs⟩ := s.roundFrame_roundStep f k
  exact ⟨hstatus, hresp, hinputs⟩

/-- A round that completes is ROUNDSTEP, so it leaves the ports. -/
theorem State.samePorts_roundMicro {s t : State} {k : BitVec 2} {f c : Word}
    (h : s.roundMicro k (s.roundStep f c) = .next t) : s.samePorts t := by
  obtain ⟨-, -, rfl⟩ := State.roundMicro_cases h
  exact s.samePorts_roundStep f c

/-- A micro-operation leaves the status registers and the ports. -/
theorem exec_micro_samePorts {s t : State} {i : Instr} (hi : i.isCommand = false) (h : exec i s = .next t) :
    s.samePorts t := by
  cases i with
  | init | update | final | rddig | rdstat => cases hi
  | padt =>
    obtain ⟨-, ⟨⟩⟩ := State.micro_cases h
    exact s.samePorts_putByte ..
  | padz =>
    obtain ⟨-, ⟨⟩⟩ := State.micro_cases h
    split
    · exact ⟨⟨rfl, rfl⟩, rfl, ⟨rfl, rfl⟩⟩
    · exact s.samePorts_putByte ..
  | padl =>
    have heffect := (State.micro_cases h).2
    split at heffect
    · cases heffect
    · cases heffect
      exact s.samePorts_putByte ..
  | ldblk =>
    obtain ⟨-, ⟨⟩⟩ := State.micro_cases h
    exact ⟨⟨rfl, rfl⟩, rfl, ⟨rfl, rfl⟩⟩
  | rnd0 | rnd1 | rnd2 | rnd3 => exact State.samePorts_roundMicro h
  | fold =>
    have heffect := (State.micro_cases h).2
    split at heffect
    · cases heffect
      exact ⟨⟨rfl, rfl⟩, rfl, ⟨rfl, rfl⟩⟩
    · cases heffect

/-- In ROUND with T up to 79 the round of the range T lies in completes (R29, R103). -/
theorem exec_round_completes {s : State} (hp : s.phase = .round) (ht : s.t.toNat ≤ 79) :
    ∃ i t, i.isCommand = false ∧ exec i s = .next t := by
  obtain h | h | h | h : s.t.toNat ≤ 19 ∨ 20 ≤ s.t.toNat ∧ s.t.toNat ≤ 39 ∨ 40 ≤ s.t.toNat ∧ s.t.toNat ≤ 59
      ∨ 60 ≤ s.t.toNat := by omega
  · exact ⟨.rnd0, _, rfl, State.roundMicro_selected _ hp (sel_of_range (k := 0) (Nat.zero_le _) h)⟩
  · exact ⟨.rnd1, _, rfl, State.roundMicro_selected _ hp (sel_of_range (k := 1) h.1 h.2)⟩
  · exact ⟨.rnd2, _, rfl, State.roundMicro_selected _ hp (sel_of_range (k := 2) h.1 h.2)⟩
  · exact ⟨.rnd3, _, rfl, State.roundMicro_selected _ hp (sel_of_range (k := 3) h ht)⟩

/-- In a busy state of the invariant a micro-operation completes: the invariant gives PADL its POS, the rounds their T
and FOLD its RET. -/
theorem State.inv.exec_micro_completes {s : State} (hinv : s.inv) (hq : s.phase.quiescent = false) :
    ∃ i t, i.isCommand = false ∧ exec i s = .next t := by
  obtain ⟨⟨-, ht, hret, -, -, hpadLen, -, -⟩, -, -⟩ := hinv
  cases hp : s.phase with
  | absorb | done => rw [hp] at hq; cases hq
  | padTerm => exact ⟨.padt, _, rfl, State.micro_selected _ hp⟩
  | padZero => exact ⟨.padz, _, rfl, State.micro_selected _ hp⟩
  | padLen => exact ⟨.padl, _, rfl, (State.micro_selected _ hp).trans (if_neg (Nat.not_lt.mpr (hpadLen hp)))⟩
  | load => exact ⟨.ldblk, _, rfl, State.micro_selected _ hp⟩
  | round => exact exec_round_completes hp ht
  | fold => exact ⟨.fold, _, rfl, State.exec_fold hp hret⟩

/-- Settles O49: no micro-operation writes ERR, ECODE or a port, and the invariant leaves none of them stuck. -/
theorem microOperationsNeverRaise : Obligations.MicroOperationsNeverRaise :=
  ⟨fun _ _ _ => exec_micro_samePorts, fun _ => State.inv.exec_micro_completes⟩

/-- The step of a busy core leaves the status registers and the ports: the sequencer word selects only micro-operations
(R53). -/
theorem State.microStep_samePorts {s t : State} (h : s.microStep = .next t) : s.samePorts t := by
  unfold State.microStep at h
  split at h
  next => cases h
  next u _ =>
    split at h
    next i hdec => exact exec_micro_samePorts ((sequencerWordSelects u i).mp hdec).1 h
    next =>
      cases h
      exact ⟨⟨rfl, rfl⟩, rfl, ⟨rfl, rfl⟩⟩

/-! ## The error state (R126) -/

/-- The only word of INIT is 0x000 (R52, R57). -/
theorem eq_zero_of_decodeCommand_init {w : CmdWord} (h : decodeCommand w = .ok .init) : w = 0x000#12 := by
  obtain ⟨hop, hlow⟩ : cmdOp w = 0 ∧ cmdImm8 w = 0 := by
    unfold decodeCommand noOperand at h
    split_ifs at h <;> simp_all
  rw [← cmdOp_append_cmdImm8 w, hop, hlow]
  rfl

/-- In the error state every legal command but INIT and RDSTAT fails its ERR check (R124). -/
theorem State.admission_of_err {s : State} {i : Instr} (he : s.err = true) (hi : i.isCommand = true)
    (hwf : i.wellFormed = true) (hinit : i ≠ .init) (hrdstat : i ≠ .rdstat) : s.admission i = some .protocol := by
  cases i with
  | init => exact absurd rfl hinit
  | rdstat => exact absurd rfl hrdstat
  | update | final => exact if_pos he
  | rddig b =>
    have hb : ¬ 20 ≤ b.toNat := by
      have : b.toNat ≤ 19 := of_decide_eq_true hwf
      omega
    exact (if_neg hb).trans (if_pos he)
  | padt | padz | padl | ldblk | rnd0 | rnd1 | rnd2 | rnd3 | fold => cases hi

/-- The first cause is kept (R127). -/
theorem State.raise_sameStatus {s : State} (c : Cause) (he : s.err = true) : s.sameStatus (s.raise c) :=
  ⟨(s.raise_err c).trans he.symm, (s.raise_ecode c).trans (if_pos he)⟩

/-- A command that does not raise keeps ERR and ECODE, unless it is INIT. -/
theorem exec_quiescent_status {s t : State} {i : Instr} (hq : s.phase.quiescent = true) (h : exec i s = .next t) :
    (∃ c, t = s.raise c) ∨ (i = .init ∧ t = s.initialise.respond (respOk 0x00#8)) ∨ s.sameStatus t := by
  rcases exec_quiescent_cases hq h with
    ⟨c, -, ht⟩ | ⟨-, hinit | ⟨b, -, rfl⟩ | ⟨-, rfl⟩ | ⟨b, -, rfl⟩ | ⟨-, rfl⟩⟩
  · exact .inl ⟨c, ht⟩
  · exact .inr (.inl hinit)
  · exact .inr (.inr ⟨State.putByte_err .., State.putByte_ecode ..⟩)
  · exact .inr (.inr ⟨rfl, rfl⟩)
  · exact .inr (.inr ⟨rfl, rfl⟩)
  · exact .inr (.inr ⟨rfl, rfl⟩)

/-- In the error state a transferred word keeps ERR and ECODE, unless it is INIT's. -/
theorem State.transfer_of_err {s t : State} {w : CmdWord} (he : s.err = true) (hq : s.phase.quiescent = true)
    (h : s.transfer w = .next t) :
    s.sameStatus t ∨ (w = 0x000#12 ∧ t = s.initialise.respond (respOk 0x00#8)) := by
  rcases State.transfer_cases h with ⟨i, hdec, hexec⟩ | ⟨-, rfl⟩
  · rcases exec_quiescent_status hq hexec with ⟨c, rfl⟩ | ⟨rfl, ht⟩ | hsame
    · exact .inl (State.raise_sameStatus c he)
    · exact .inr ⟨eq_zero_of_decodeCommand_init hdec, ht⟩
    · exact .inl hsame
  · exact .inl (State.raise_sameStatus _ he)

/-- In the error state a step keeps ERR and ECODE, or is a reset or INIT. -/
theorem step_of_err {s t : State} (he : s.err = true) (h : step s = .next t) :
    s.sameStatus t
    ∨ (∃ rest, s.host = .reset :: rest ∧ t = (s.setHost rest).resetEvent)
    ∨ (∃ rest, s.host = .command 0x000#12 :: rest ∧ t = (s.setHost rest).initialise.respond (respOk 0x00#8)) := by
  rcases step_cases h with hreset | ⟨-, hq, ⟨w, rest, hh, hcmd⟩ | ⟨rest, -, rfl⟩ | ⟨-, rfl⟩⟩ | ⟨-, -, -, hmicro⟩
  · exact .inr (.inl hreset)
  · rcases State.transfer_of_err (s := s.setHost rest) he hq hcmd with hsame | ⟨rfl, ht⟩
    · exact .inl hsame
    · exact .inr (.inr ⟨rest, hh, ht⟩)
  · exact .inl ⟨rfl, rfl⟩
  · exact .inl ⟨rfl, rfl⟩
  · exact .inl (State.microStep_samePorts hmicro).1

/-- Settles O27: with ERR = 1 only INIT and RDSTAT pass their checks, every step but INIT and reset keeps the status,
and these two re-initialise. -/
theorem errorLeftOnlyByInitOrReset : Obligations.ErrorLeftOnlyByInitOrReset := by
  refine ⟨fun _ _ => State.admission_of_err, fun _ => ⟨rfl, rfl⟩, fun s t he hstep => ?_⟩
  rcases step_of_err he hstep with ⟨herr, hecode⟩ | ⟨rest, hh, rfl⟩ | ⟨rest, hh, rfl⟩
  · exact .inl ⟨herr.trans he, hecode⟩
  · exact .inr ⟨.inl ⟨rest, hh⟩, rfl, rfl, rfl, rfl, rfl, rfl, rfl, rfl⟩
  · exact .inr ⟨.inr ⟨rest, hh⟩, rfl, rfl, rfl, rfl, rfl, rfl, rfl, rfl⟩

end Sys2Proof.Machine
end

section
/-! Power-on reset (spec/70_reset_and_hazards.md R142): the registers are read off, and the views follow from PHASE,
ERR and ECODE. -/

namespace Sys2Proof.Machine

/-- DV is set in DONE only (R32). -/
theorem State.dv_of_absorb {s : State} (hp : s.phase = .absorb) : s.dv = false := by
  simp [State.dv, hp]

/-- ABSORB is a phase in which a command is accepted (R140). -/
theorem State.cmdReady_of_absorb {s : State} (hp : s.phase = .absorb) : s.cmdReady = true :=
  Phase.quiescent_iff.mpr (.inl hp)

/-- STATUS is zero in ABSORB with no error standing, each of its fields being zero (R32). -/
theorem State.status_of_absorb {s : State} (hp : s.phase = .absorb) (he : s.err = false) (hc : s.ecode = .none) :
    s.status = 0x00 := by
  rw [State.status, State.dv_of_absorb hp, hp, he, hc]
  decide

/-- Settles O13: the registers are the fields of `State.reset`, and the three views are those of ABSORB with no error
standing. -/
theorem resetValues : Obligations.ResetValues :=
  ⟨rfl, rfl, rfl, rfl, rfl, rfl, rfl, rfl, rfl, rfl, rfl, rfl,
    State.status_of_absorb rfl rfl rfl, State.dv_of_absorb rfl, State.cmdReady_of_absorb rfl⟩

end Sys2Proof.Machine
end

section
/-! Encoding (spec/30_encoding.md R52 to R58): decoding undoes encoding and encoding decoding, which words are legal and
why the others are not, and the words the assembler emits (R61). -/

namespace Sys2Proof

/-! ## Decoding and encoding -/

/-- Settles O1: each of the listed words, by the decoders' own computation. -/
theorem decodesTableWords : Obligations.DecodesTableWords := by
  unfold Obligations.DecodesTableWords
  decide

/-- Settles O2: an operand is read back from the word it stands in, and the words without one are decoded as they
stand. -/
theorem decodeOfEncode : Obligations.DecodeOfEncode := by
  intro i hwf
  cases i with
  | update b => exact decodeCommand_update b
  | rddig b => exact decodeCommand_rddig (of_decide_eq_true hwf)
  | init | final | rdstat => rfl
  | padt | padz | padl | ldblk | rnd0 | rnd1 | rnd2 | rnd3 | fold => rfl

/-- What a word is that decodes to a command: its opcode is the command's, and its low byte the operand or zero (R52,
R57, R58). -/
theorem decodeCommand_eq_ok_iff (w : CmdWord) (i : Instr) :
    decodeCommand w = .ok i ↔
      (i = .init ∧ cmdOp w = 0 ∧ cmdImm8 w = 0) ∨ (i = .update (cmdImm8 w) ∧ cmdOp w = 1)
      ∨ (i = .final ∧ cmdOp w = 2 ∧ cmdImm8 w = 0)
      ∨ (i = .rddig (cmdImm8 w) ∧ cmdOp w = 3 ∧ (cmdImm8 w).toNat ≤ 19)
      ∨ (i = .rdstat ∧ cmdOp w = 4 ∧ cmdImm8 w = 0) := by
  unfold decodeCommand noOperand
  split_ifs <;> simp_all [eq_comm (a := i)]

/-- A word with a known opcode and low byte. -/
theorem eq_append_of_fields {w : CmdWord} {op : BitVec 4} {b : Byte} (hop : cmdOp w = op) (hb : cmdImm8 w = b) :
    op ++ b = w := by
  rw [← hop, ← hb, cmdOp_append_cmdImm8]

/-- Settles O3: the opcode and the low byte are read off the decoded command, and together they are the word. -/
theorem encodeOfDecodedCommand : Obligations.EncodeOfDecodedCommand := by
  intro w i h
  rcases (decodeCommand_eq_ok_iff w i).mp h with
    ⟨rfl, hop, hb⟩ | ⟨rfl, hop⟩ | ⟨rfl, hop, hb⟩ | ⟨rfl, hop, hb⟩ | ⟨rfl, hop, hb⟩
  · exact ⟨congrArg Code.command (eq_append_of_fields hop hb), rfl, rfl⟩
  · exact ⟨congrArg Code.command (eq_append_of_fields hop rfl), rfl, rfl⟩
  · exact ⟨congrArg Code.command (eq_append_of_fields hop hb), rfl, rfl⟩
  · exact ⟨congrArg Code.command (eq_append_of_fields hop rfl), decide_eq_true hb, rfl⟩
  · exact ⟨congrArg Code.command (eq_append_of_fields hop hb), rfl, rfl⟩

/-! ## The legal words (R52, R54) -/

/-- The numbers of the legal command words. -/
abbrev legalNumber (n : Nat) : Prop :=
  n = 0x000 ∨ (0x100 ≤ n ∧ n ≤ 0x1FF) ∨ n = 0x200 ∨ (0x300 ≤ n ∧ n ≤ 0x313) ∨ n = 0x400

theorem exists_decodeCommand_ok_iff (w : CmdWord) : (∃ i, decodeCommand w = .ok i) ↔ legalNumber w.toNat := by
  have hop (op : BitVec 4) : cmdOp w = op ↔ w.toNat / 256 = op.toNat := cmdOp_eq_iff w op
  simp only [decodeCommand_eq_ok_iff, hop, cmdImm8_eq_zero_iff, cmdImm8_toNat, exists_or, exists_eq_left, legalNumber]
  simp
  omega

/-- What the decoder says of a word, by its opcode and low byte as numbers (R56 to R58). -/
theorem decodeCommand_error_cases (w : CmdWord) :
    (decodeCommand w = .error .reservedOpcode ∧ 5 ≤ w.toNat / 256)
    ∨ (decodeCommand w = .error .nonzeroLowByte
        ∧ (w.toNat / 256 = 0 ∨ w.toNat / 256 = 2 ∨ w.toNat / 256 = 4) ∧ w.toNat % 256 ≠ 0)
    ∨ (decodeCommand w = .error .digestIndex ∧ w.toNat / 256 = 3 ∧ 20 ≤ w.toNat % 256)
    ∨ ((∃ i, decodeCommand w = .ok i) ∧ legalNumber w.toNat) := by
  by_cases hlegal : legalNumber w.toNat
  · exact .inr (.inr (.inr ⟨(exists_decodeCommand_ok_iff w).mpr hlegal, hlegal⟩))
  · by_cases h5 : 5 ≤ w.toNat / 256
    · exact .inl ⟨decodeCommand_reservedOpcode h5, h5⟩
    · by_cases h3 : w.toNat / 256 = 3
      · have hidx : 20 ≤ w.toNat % 256 := by omega
        exact .inr (.inr (.inl ⟨decodeCommand_digestIndex h3 hidx, h3, hidx⟩))
      · have hop : w.toNat / 256 = 0 ∨ w.toNat / 256 = 2 ∨ w.toNat / 256 = 4 := by omega
        have hlow : w.toNat % 256 ≠ 0 := by omega
        exact .inr (.inl ⟨decodeCommand_nonzeroLowByte hop hlow, hop, hlow⟩)

theorem decodeTableWord_isSome_iff {n : Nat} (hn : n < 4096) :
    (decodeTableWord 12 n).isSome = true ↔ legalNumber n := by
  have htoNat : (BitVec.ofNat 12 n).toNat = n := by
    rw [BitVec.toNat_ofNat]
    omega
  have hlegal := exists_decodeCommand_ok_iff (BitVec.ofNat 12 n)
  rw [htoNat] at hlegal
  rw [← hlegal, decodeTableWord, if_neg (by decide), if_pos hn]
  cases decodeCommand (BitVec.ofNat 12 n) <;> simp [Except.toOption]

/-- In a stretch of legal numbers every word is counted. -/
theorem countP_legal_stretch (a n : Nat) (hlt : a + n ≤ 4096) (h : ∀ k, a ≤ k → k < a + n → legalNumber k) :
    (List.range' a n).countP (fun n => (decodeTableWord 12 n).isSome) = n := by
  refine (List.countP_eq_length.mpr fun k hk => ?_).trans List.length_range'
  obtain ⟨hlo, hhi⟩ := List.mem_range'_1.mp hk
  exact (decodeTableWord_isSome_iff (by omega)).mpr (h k hlo hhi)

/-- In a stretch of illegal numbers none is. -/
theorem countP_illegal_stretch (a n : Nat) (hlt : a + n ≤ 4096) (h : ∀ k, a ≤ k → k < a + n → ¬ legalNumber k) :
    (List.range' a n).countP (fun n => (decodeTableWord 12 n).isSome) = 0 := by
  refine List.countP_eq_zero.mpr fun k hk => ?_
  obtain ⟨hlo, hhi⟩ := List.mem_range'_1.mp hk
  exact mt (decodeTableWord_isSome_iff (by omega)).mp (h k hlo hhi)

/-- The numbers below 4096, cut where legal and illegal stretches meet. -/
theorem range_stretches : List.range 4096 =
    List.range' 0 1 ++ (List.range' 1 255 ++ (List.range' 256 256 ++ (List.range' 512 1 ++ (List.range' 513 255 ++
      (List.range' 768 20 ++ (List.range' 788 236 ++ (List.range' 1024 1 ++ List.range' 1025 3071))))))) := by
  have join (a m n : Nat) : List.range' a m ++ List.range' (a + m) n = List.range' a (m + n) := List.range'_append_1
  rw [join 1024 1, join 788 236, join 768 20, join 513 255, join 512 1, join 256 256, join 1 255, join 0 1,
    List.range_eq_range']

/-- 1 + 256 + 1 + 20 + 1 words are legal. -/
theorem countP_legal : (List.range 4096).countP (fun n => (decodeTableWord 12 n).isSome) = 279 := by
  rw [range_stretches]
  simp only [List.countP_append]
  rw [countP_legal_stretch 0 1, countP_illegal_stretch 1 255, countP_legal_stretch 256 256, countP_legal_stretch 512 1,
    countP_illegal_stretch 513 255, countP_legal_stretch 768 20, countP_illegal_stretch 788 236,
    countP_legal_stretch 1024 1, countP_illegal_stretch 1025 3071]
  all_goals omega

/-- Settles O4. -/
theorem legalCommandWords : Obligations.LegalCommandWords := by
  refine ⟨fun w => ⟨exists_decodeCommand_ok_iff w, ?_⟩, countP_legal⟩
  have hcases := decodeCommand_error_cases w
  rcases hcases with ⟨h, hn⟩ | ⟨h, hn⟩ | ⟨h, hn⟩ | ⟨⟨i, h⟩, hn⟩
  all_goals
    rw [h]
    simp only [Except.error.injEq, reduceCtorEq, true_iff, false_iff]
    refine ⟨?_, ?_, ?_⟩ <;> omega

end Sys2Proof
end

section
/-! One instruction and one step, each as a relation with one case for each way it can complete
(spec/40_host_commands.md R62 to R67, spec/41_padder.md R76 to R78, R86, R103, R115, R139, R144). They hold exactly
when `exec` and `step` answer a next state, so an invariant is one case analysis, and a second run is followed by
building the same case again. -/

namespace Sys2Proof.Machine

/-! ## One instruction -/

/-- The round micro-operation of a SEL (R53). -/
def roundOf (k : BitVec 2) : Instr := if k = 0 then .rnd0 else if k = 1 then .rnd1 else if k = 2 then .rnd2 else .rnd3

/-- ROUNDSTEP with the function and the constant of a SEL (R104 to R107). -/
def State.roundBy (s : State) (k : BitVec 2) : State := s.roundStep (fsel k s.work.b s.work.c s.work.d) (klut k)

/-- The state with one more message byte counted (R64). -/
def State.countByte (s : State) : State := { s with len := s.len + 1#61 }

theorem State.countByte_len_toNat {s : State} (h : s.len.toNat + 1 < 2 ^ 61) :
    s.countByte.len.toNat = s.len.toNat + 1 := by
  rw [State.countByte]
  bv_omega

/-- The state an admitted UPDATE leaves (R64). -/
def State.absorbByte (s : State) (b : Byte) : State := (s.countByte.putByte b .absorb .absorb).respond (respOk 0x00#8)

/-- The state an admitted FINAL leaves (R65). -/
def State.startPadding (s : State) : State := { s with phase := .padTerm }.respond (respOk 0x00#8)

section
variable (s : State) (b : Byte)

@[simp] theorem State.absorbByte_acc : (s.absorbByte b).acc = s.acc := s.countByte.putByte_acc ..
@[simp] theorem State.absorbByte_work : (s.absorbByte b).work = s.work := s.countByte.putByte_work ..
@[simp] theorem State.absorbByte_sr : (s.absorbByte b).sr = s.sr := s.countByte.putByte_sr ..
@[simp] theorem State.absorbByte_buf : (s.absorbByte b).buf = s.buf.put s.pos.toNat b := s.countByte.putByte_buf ..
@[simp] theorem State.absorbByte_len : (s.absorbByte b).len = s.countByte.len := s.countByte.putByte_len ..
@[simp] theorem State.absorbByte_pos : (s.absorbByte b).pos = s.pos + 1#6 := s.countByte.putByte_pos ..
@[simp] theorem State.absorbByte_phase : (s.absorbByte b).phase = if s.pos = 63#6 then .load else .absorb :=
  s.countByte.putByte_phase ..
@[simp] theorem State.absorbByte_t : (s.absorbByte b).t = s.t := s.countByte.putByte_t ..
@[simp] theorem State.absorbByte_ret : (s.absorbByte b).ret = if s.pos = 63#6 then .absorb else s.ret :=
  s.countByte.putByte_ret ..
@[simp] theorem State.absorbByte_err : (s.absorbByte b).err = s.err := s.countByte.putByte_err ..
@[simp] theorem State.absorbByte_ecode : (s.absorbByte b).ecode = s.ecode := s.countByte.putByte_ecode ..
@[simp] theorem State.absorbByte_resp : (s.absorbByte b).resp = some (respOk 0x00#8) := rfl
@[simp] theorem State.absorbByte_trace : (s.absorbByte b).trace = s.trace := s.countByte.putByte_trace ..
@[simp] theorem State.absorbByte_host : (s.absorbByte b).host = s.host := s.countByte.putByte_host ..
@[simp] theorem State.absorbByte_resets : (s.absorbByte b).resets = s.resets := s.countByte.putByte_resets ..

theorem State.bufByte_absorbByte (a : Nat) :
    (s.absorbByte b).bufByte a = if a = s.pos.toNat then b else s.bufByte a := s.countByte.bufByte_putByte ..

end

/-! `roundBy` -/

section
variable (s : State) (k : BitVec 2)

/-- ROUNDSTEP's writes, each field once (R103). -/
theorem State.roundBy_eq :
    s.roundBy k =
      let r := roundWork s.work (fsel k s.work.b s.work.c s.work.d) s.sr[0] (klut k)
      { s with
        work := r, sr := scheduleStep s.sr,
        trace := s.trace ++ [.schedule s.t s.sr[0], .round s.t r.a r.b r.c r.d r.e],
        t := if s.t = 79#7 then 0#7 else s.t + 1#7,
        phase := if s.t = 79#7 then .fold else s.phase } := State.roundStep_eq ..

@[simp] theorem State.roundBy_acc : (s.roundBy k).acc = s.acc := by rw [State.roundBy_eq]
@[simp] theorem State.roundBy_buf : (s.roundBy k).buf = s.buf := by rw [State.roundBy_eq]
@[simp] theorem State.roundBy_len : (s.roundBy k).len = s.len := by rw [State.roundBy_eq]
@[simp] theorem State.roundBy_pos : (s.roundBy k).pos = s.pos := by rw [State.roundBy_eq]
@[simp] theorem State.roundBy_t : (s.roundBy k).t = if s.t = 79#7 then 0#7 else s.t + 1#7 := by rw [State.roundBy_eq]
@[simp] theorem State.roundBy_ret : (s.roundBy k).ret = s.ret := by rw [State.roundBy_eq]
@[simp] theorem State.roundBy_err : (s.roundBy k).err = s.err := by rw [State.roundBy_eq]
@[simp] theorem State.roundBy_ecode : (s.roundBy k).ecode = s.ecode := by rw [State.roundBy_eq]
@[simp] theorem State.roundBy_resets : (s.roundBy k).resets = s.resets := by rw [State.roundBy_eq]
@[simp] theorem State.roundBy_blockWords : (s.roundBy k).blockWords = s.blockWords := s.roundStep_blockWords ..

theorem State.roundBy_work :
    (s.roundBy k).work = roundWork s.work (fsel k s.work.b s.work.c s.work.d) s.sr[0] (klut k) := by
  rw [State.roundBy_eq]

theorem State.roundBy_phase (hp : s.phase = .round) :
    (s.roundBy k).phase = if s.t = 79#7 then .fold else .round := s.roundStep_phase _ _ hp

end

/-- Instruction `i` completes in state `s` and leaves the last argument. -/
inductive Effect (s : State) : Instr → State → Prop where
  | raises {i : Instr} {c : Cause} (hq : s.phase.quiescent = true) (hi : i.isCommand = true)
      (ha : s.admission i = some c) : Effect s i (s.raise c)
  | init (hq : s.phase.quiescent = true) : Effect s .init (s.initialise.respond (respOk 0x00#8))
  | update {b : Byte} (hp : s.phase = .absorb) (he : s.err = false) (hl : s.len.toNat + 1 < 2 ^ 61) :
      Effect s (.update b) (s.absorbByte b)
  | final (hp : s.phase = .absorb) (he : s.err = false) : Effect s .final s.startPadding
  | rddig {b : Byte} (hp : s.phase = .done) (he : s.err = false) (hb : b.toNat ≤ 19) :
      Effect s (.rddig b) (s.respond (respOk (s.acc.digestByte b.toNat)))
  | rdstat (hq : s.phase.quiescent = true) : Effect s .rdstat (s.respond (respOk s.status))
  | padt (hp : s.phase = .padTerm) : Effect s .padt (s.putByte 0x80#8 .padZero .padZero)
  | padzEnd (hp : s.phase = .padZero) (hpos : s.pos = 56#6) : Effect s .padz { s with phase := .padLen }
  | padzByte (hp : s.phase = .padZero) (hpos : s.pos ≠ 56#6) : Effect s .padz (s.putByte 0x00#8 .padZero .padZero)
  | padl (hp : s.phase = .padLen) (hpos : 56 ≤ s.pos.toNat) :
      Effect s .padl (s.putByte s.trailerByte .padLen .done)
  | ldblk (hp : s.phase = .load) : Effect s .ldblk (s.loadBlock.emit (.block s.blockWords))
  | round {k : BitVec 2} (hp : s.phase = .round) (hs : sel s.t = some k) : Effect s (roundOf k) (s.roundBy k)
  | fold (hp : s.phase = .fold) (hr : s.ret.isReturn = true) :
      Effect s .fold { s with acc := s.acc.add s.work, phase := s.ret }

theorem bitVec2_cases : ∀ k : BitVec 2, k = 0 ∨ k = 1 ∨ k = 2 ∨ k = 3 := by decide

theorem isRound_roundOf (k : BitVec 2) : isRound (roundOf k) := by
  obtain rfl | rfl | rfl | rfl := bitVec2_cases k
  · exact .inl rfl
  · exact .inr (.inl rfl)
  · exact .inr (.inr (.inl rfl))
  · exact .inr (.inr (.inr rfl))

theorem isCommand_of_isRound {i : Instr} (h : isRound i) : i.isCommand = false := by
  rcases h with rfl | rfl | rfl | rfl <;> rfl

@[simp] theorem isCommand_roundOf (k : BitVec 2) : (roundOf k).isCommand = false :=
  isCommand_of_isRound (isRound_roundOf k)

theorem exec_roundOf (k : BitVec 2) (s : State) : exec (roundOf k) s = s.roundMicro k (s.roundBy k) := by
  obtain rfl | rfl | rfl | rfl := bitVec2_cases k
  all_goals rfl

/-- A round that completes is the one SEL selects. -/
theorem Effect.ofRound {s t : State} {k : BitVec 2} (h : exec (roundOf k) s = .next t) : Effect s (roundOf k) t := by
  rw [exec_roundOf] at h
  obtain ⟨hp, hs, rfl⟩ := State.roundMicro_cases h
  exact .round hp hs

/-- UPDATE and FINAL are admitted in ABSORB with no error standing (R124). -/
theorem absorb_of_not_protocol {s : State} (hq : s.phase.quiescent = true) (h : ¬ (s.err = true ∨ s.phase = .done)) :
    s.phase = .absorb ∧ s.err = false :=
  ⟨(Phase.quiescent_iff.mp hq).resolve_right fun hd => h (.inr hd), Bool.eq_false_iff.mpr fun he => h (.inl he)⟩

/-- RDDIG is admitted in DONE with no error standing (R124). -/
theorem done_of_not_protocol {s : State} (hq : s.phase.quiescent = true) (h : ¬ (s.err = true ∨ s.phase = .absorb)) :
    s.phase = .done ∧ s.err = false :=
  ⟨(Phase.quiescent_iff.mp hq).resolve_left fun hd => h (.inr hd), Bool.eq_false_iff.mpr fun he => h (.inl he)⟩

/-- A host command that completes raises or has its effect. -/
theorem Effect.ofCommand {s t : State} {i : Instr} (hq : s.phase.quiescent = true) (h : exec i s = .next t)
    (hi : i.isCommand = true) : Effect s i t := by
  rcases exec_quiescent_cases hq h with
    ⟨c, ha, rfl⟩ | ⟨ha, ⟨rfl, rfl⟩ | ⟨b, rfl, rfl⟩ | ⟨rfl, rfl⟩ | ⟨b, rfl, rfl⟩ | ⟨rfl, rfl⟩⟩
  · exact .raises hq hi ha
  · exact .init hq
  · rw [State.admission_update b hq] at ha
    split_ifs at ha with hr hl
    obtain ⟨hp, he⟩ := absorb_of_not_protocol hq hr
    have := s.len.isLt
    exact .update hp he (by omega)
  · rw [State.admission_final hq] at ha
    split_ifs at ha with hr
    obtain ⟨hp, he⟩ := absorb_of_not_protocol hq hr
    exact .final hp he
  · rw [State.admission_rddig b hq] at ha
    split_ifs at ha with hb hr
    obtain ⟨hp, he⟩ := done_of_not_protocol hq hr
    exact .rddig hp he (by omega)
  · exact .rdstat hq

theorem exec_isCommand_quiescent {s t : State} {i : Instr} (hi : i.isCommand = true) (h : exec i s = .next t) :
    s.phase.quiescent = true := by
  obtain ⟨effect, hexec⟩ := exec_isCommand hi s
  exact (State.command_cases (hexec ▸ h)).1

/-- An instruction that completes has one of the effects. -/
theorem Effect.of_exec {s t : State} {i : Instr} (h : exec i s = .next t) : Effect s i t := by
  cases i with
  | init | update | final | rddig | rdstat => exact .ofCommand (exec_isCommand_quiescent rfl h) h rfl
  | padt =>
    obtain ⟨hp, ⟨⟩⟩ := State.micro_cases h
    exact .padt hp
  | padz =>
    obtain ⟨hp, ⟨⟩⟩ := State.micro_cases h
    split
    next hpos => exact .padzEnd hp hpos
    next hpos => exact .padzByte hp hpos
  | padl =>
    obtain ⟨hp, heffect⟩ := State.micro_cases h
    split at heffect
    next => cases heffect
    next hpos =>
      cases heffect
      exact .padl hp (Nat.le_of_not_lt hpos)
  | ldblk =>
    obtain ⟨hp, ⟨⟩⟩ := State.micro_cases h
    exact .ldblk hp
  | rnd0 => exact .ofRound (k := 0) h
  | rnd1 => exact .ofRound (k := 1) h
  | rnd2 => exact .ofRound (k := 2) h
  | rnd3 => exact .ofRound (k := 3) h
  | fold =>
    obtain ⟨hp, heffect⟩ := State.micro_cases h
    split at heffect
    next hr =>
      cases heffect
      exact .fold hp hr
    next => cases heffect

/-- An instruction has each of the effects where its case says so. -/
theorem Effect.exec_eq {s t : State} {i : Instr} (h : Effect s i t) : exec i s = .next t := by
  have absorbing (hp : s.phase = .absorb) : s.phase.quiescent = true := Phase.quiescent_iff.mpr (.inl hp)
  have noProtocol {p q : Phase} (hp : s.phase = p) (he : s.err = false) (hne : p ≠ q) :
      ¬ (s.err = true ∨ s.phase = q) := by simp [he, hp, hne]
  cases h with
  | raises hq hi ha => exact exec_raises hq hi ha
  | init hq => exact exec_init hq
  | update hp he hl =>
    rw [exec_update _ (absorbing hp), if_neg (noProtocol hp he (by decide)), if_neg (by omega)]
    rfl
  | final hp he =>
    rw [exec_final (absorbing hp), if_neg (noProtocol hp he (by decide))]
    rfl
  | rddig hp he hb => exact exec_rddig_done hp he hb
  | rdstat hq => exact exec_rdstat hq
  | padt hp => exact State.micro_selected _ hp
  | padzEnd hp hpos => exact (State.micro_selected _ hp).trans (by rw [if_pos hpos])
  | padzByte hp hpos => exact (State.micro_selected _ hp).trans (by rw [if_neg hpos])
  | padl hp hpos => exact (State.micro_selected _ hp).trans (if_neg (Nat.not_lt.mpr hpos))
  | ldblk hp => exact exec_ldblk hp
  | round hp hs => rw [exec_roundOf, State.roundMicro_selected _ hp hs]
  | fold hp hr => exact State.exec_fold hp hr

/-- In ROUND the sequencer word selects the round of its SEL (R53). -/
theorem decodeMicro_round : ∀ k : BitVec 2, decodeMicro (Phase.round.code ++ k) = .ok (roundOf k) := by decide

/-- The sequencer word of a state in which a micro-operation completes selects it (R53). -/
theorem Effect.selected {s t : State} {i : Instr} (h : Effect s i t) (hi : i.isCommand = false) :
    ∃ u, s.uop = some u ∧ decodeMicro u = .ok i := by
  have outsideRound (hp : s.phase ≠ .round) : s.uop = some (s.phase.code ++ 0#2) := if_neg hp
  cases h with
  | raises _ hc _ => rw [hi] at hc; cases hc
  | init | update | final | rddig | rdstat => cases hi
  | padt hp | padzEnd hp | padzByte hp | padl hp | ldblk hp | fold hp =>
    exact ⟨_, outsideRound (by rw [hp]; decide), by rw [hp]; decide⟩
  | @round k hp hs => exact ⟨s.phase.code ++ k, (if_pos hp).trans (by rw [hs]; rfl), hp ▸ decodeMicro_round k⟩

/-- Settles O39: an instruction that completes has its effect in the phase, and a round with the SEL, that selects it.
-/
theorem microOperationNeedsItsPhase : Obligations.MicroOperationNeedsItsPhase :=
  fun _ _ _ hi h => (Effect.of_exec h).selected hi

/-! ## One step -/

/-- State `s` has a step, which leaves the last argument. -/
inductive StepEffect (s : State) : State → Prop where
  | reset {rest : List HostMove} (hh : s.host = .reset :: rest) : StepEffect s (s.setHost rest).resetEvent
  | illegal {w : CmdWord} {rest : List HostMove} {e : DecodeError} (he : s.excluded = false)
      (hq : s.phase.quiescent = true) (hh : s.host = .command w :: rest) (hw : decodeCommand w = .error e) :
      StepEffect s ((s.setHost rest).raise .illegalCommand)
  | command {w : CmdWord} {rest : List HostMove} {i : Instr} {t : State} (he : s.excluded = false)
      (hq : s.phase.quiescent = true) (hh : s.host = .command w :: rest) (hw : decodeCommand w = .ok i)
      (heffect : Effect (s.setHost rest) i t) : StepEffect s t
  | wait {rest : List HostMove} (he : s.excluded = false) (hq : s.phase.quiescent = true)
      (hh : s.host = .wait :: rest) : StepEffect s (s.setHost rest)
  | hold (he : s.excluded = false) (hq : s.phase.quiescent = true) (hh : s.host = []) : StepEffect s s
  | micro {i : Instr} {t : State} (he : s.excluded = false) (hq : s.phase.quiescent = false)
      (hh : ∀ rest, s.host ≠ .reset :: rest) (hi : i.isCommand = false)
      (heffect : Effect (s.setHost (busyMoves s.host)) i t) : StepEffect s t

/-- Reset comes before anything else (R144). -/
theorem step_reset {s : State} {rest : List HostMove} (hh : s.host = .reset :: rest) :
    step s = .next (s.setHost rest).resetEvent := by
  simp [step, State.sequencerStep, hh]

/-- Without a reset a state of U5 stops, and any other proceeds (R147). -/
theorem step_no_reset {s : State} (hh : ∀ rest, s.host ≠ .reset :: rest) :
    step s = if s.excluded then .fault .unreachableState else s.proceed := by
  unfold step State.sequencerStep
  split
  next rest h => exact absurd h (hh rest)
  next => rfl

/-- A busy core executes its micro-operation, whatever the host offers but reset (R28). -/
theorem step_micro {s : State} (he : s.excluded = false) (hq : s.phase.quiescent = false)
    (hh : ∀ rest, s.host ≠ .reset :: rest) : step s = (s.setHost (busyMoves s.host)).microStep := by
  rw [step_no_reset hh, if_neg (by simp [he]), State.proceed, if_neg (by simp [hq])]

theorem State.microStep_eq {s : State} {u : UopWord} {i : Instr} (hu : s.uop = some u) (hi : decodeMicro u = .ok i) :
    s.microStep = exec i s := by
  simp [State.microStep, hu, hi]

/-- A micro-operation that completes is the one the core executes. -/
theorem Effect.microStep_eq {s t : State} {i : Instr} (h : Effect s i t) (hi : i.isCommand = false) :
    s.microStep = .next t := by
  obtain ⟨u, hu, hdec⟩ := h.selected hi
  rw [State.microStep_eq hu hdec, h.exec_eq]

/-- In a busy phase the micro-operation the core executes has one of the effects. -/
theorem Effect.of_microStep {s t : State} (hq : s.phase.quiescent = false) (h : s.microStep = .next t) :
    ∃ i, i.isCommand = false ∧ Effect s i t := by
  rcases State.microStep_cases hq h with
    ⟨hp, rfl⟩ | ⟨hp, hpos, rfl⟩ | ⟨hp, hpos, rfl⟩ | ⟨hp, hpos, rfl⟩ | ⟨hp, rfl⟩ | ⟨hp, ht, rfl⟩ | ⟨hp, hret, rfl⟩
  · exact ⟨_, rfl, .padt hp⟩
  · exact ⟨_, rfl, .padzEnd hp hpos⟩
  · exact ⟨_, rfl, .padzByte hp hpos⟩
  · exact ⟨_, rfl, .padl hp hpos⟩
  · exact ⟨_, rfl, .ldblk hp⟩
  · exact ⟨_, isCommand_roundOf _, .round hp (sel_eq_div ht)⟩
  · exact ⟨_, rfl, .fold hp hret⟩

/-- A step that completes has one of the effects. -/
theorem StepEffect.of_step {s t : State} (h : step s = .next t) : StepEffect s t := by
  rcases step_cases h with
    ⟨rest, hh, rfl⟩ | ⟨he, hq, ⟨w, rest, hh, hcmd⟩ | ⟨rest, hh, rfl⟩ | ⟨hh, rfl⟩⟩ | ⟨he, hq, hh, hmicro⟩
  · exact .reset hh
  · rcases State.transfer_cases hcmd with ⟨i, hw, hexec⟩ | ⟨⟨e, hw⟩, rfl⟩
    · exact .command he hq hh hw (.of_exec hexec)
    · exact .illegal he hq hh hw
  · exact .wait he hq hh
  · exact .hold he hq hh
  · obtain ⟨i, hi, heffect⟩ := Effect.of_microStep (s := s.setHost (busyMoves s.host)) hq hmicro
    exact .micro he hq hh hi heffect

/-- A step has each of the effects where its case says so. -/
theorem StepEffect.step_eq {s t : State} (h : StepEffect s t) : step s = .next t := by
  cases h with
  | reset hh => exact step_reset hh
  | illegal he hq hh hw => rw [step_command he hq hh, State.transfer_error _ hw]
  | command he hq hh hw heffect => rw [step_exec he hq hh hw, heffect.exec_eq]
  | wait he hq hh => simp [step, State.sequencerStep, State.proceed, he, hq, hh]
  | hold he hq hh => simp [step, State.sequencerStep, State.proceed, he, hq, hh]
  | micro he hq hh hi heffect => rw [step_micro he hq hh, heffect.microStep_eq hi]

/-- A busy core whose host makes no move it would notice executes the micro-operation that completes (R28). -/
theorem Effect.step_eq {s t : State} {i : Instr} (h : Effect s i t) (hi : i.isCommand = false) (he : s.excluded = false)
    (hq : s.phase.quiescent = false) (hh : quietHost s.host) : step s = .next t :=
  (step_busy he hq hh).trans (h.microStep_eq hi)

/-- What every instruction, reset, an illegal word and a move of the host keep, every step keeps. -/
theorem StepEffect.keeps {P : State → Prop} (hhost : ∀ u moves, P u → P (u.setHost moves))
    (hreset : ∀ u : State, P u.resetEvent)
    (hillegal : ∀ u : State, u.phase.quiescent = true → P u → P (u.raise .illegalCommand))
    (heffect : ∀ u i v, P u → Effect u i v → P v) {s t : State} (hs : P s) (h : step s = .next t) : P t := by
  cases StepEffect.of_step h with
  | reset hh => exact hreset _
  | illegal he hq hh hw => exact hillegal _ hq (hhost s _ hs)
  | command he hq hh hw heff => exact heffect _ _ _ (hhost s _ hs) heff
  | wait he hq hh => exact hhost s _ hs
  | hold he hq hh => exact hs
  | micro he hq hh hi heff => exact heffect _ _ _ (hhost s _ hs) heff

end Sys2Proof.Machine
end

section
/-! The invariants of the reachable state (spec/10_state.md R36) are kept by every step, and give every state of
theirs a step (R54, R128). -/

namespace Sys2Proof.Machine

/-! ## The invariant, phase by phase -/

/-- What R36 says of T, POS, LEN and RET in phase `p`, with what makes (c) inductive (log entry 17). -/
def Phase.counts (p : Phase) (t : BitVec 7) (pos : BitVec 6) (len : BitVec 61) (ret : Phase) : Prop :=
  match p with
  | .absorb => t = 0#7 ∧ pos.toNat = len.toNat % 64
  | .padTerm => t = 0#7
  | .padZero => t = 0#7
  | .padLen => t = 0#7 ∧ 56 ≤ pos.toNat
  | .load => t = 0#7 ∧ pos = 0#6 ∧ (ret = .absorb → len.toNat % 64 = 0)
  | .round => t.toNat ≤ 79 ∧ pos = 0#6 ∧ (ret = .absorb → len.toNat % 64 = 0)
  | .fold => t = 0#7 ∧ pos = 0#6 ∧ (ret = .absorb → len.toNat % 64 = 0)
  | .done => t = 0#7 ∧ pos = 0#6

/-- R36 without the buffer: what PHASE says of the counters, RET a phase that FOLD can go to, and a cause exactly when
ERR is set. -/
def State.steady (s : State) : Prop :=
  s.phase.counts s.t s.pos s.len s.ret ∧ s.ret.isReturn = true ∧ (s.err = false ↔ s.ecode = .none)

theorem Phase.compressing_iff {p : Phase} : p.compressing = true ↔ p = .load ∨ p = .round ∨ p = .fold := by
  simp [Phase.compressing, or_assoc]

section
variable {s : State} (h : s.steady)
include h

/-- What PHASE says of the counters. -/
theorem State.steady.counts {p : Phase} (hp : s.phase = p) : p.counts s.t s.pos s.len s.ret := hp ▸ h.1

/-- A cause stands exactly when ERR is set. -/
theorem State.steady.cause : s.err = false ↔ s.ecode = .none := by
  obtain ⟨-, -, hcause⟩ := h
  exact hcause

theorem State.steady.t_eq_zero (hp : s.phase ≠ .round) : s.t = 0#7 := by
  cases hq : s.phase with
  | padTerm | padZero => exact h.counts hq
  | absorb | padLen | load | fold | done => exact (h.counts hq).1
  | round => exact absurd hq hp

theorem State.steady.t_le (hp : s.phase = .round) : s.t.toNat ≤ 79 := (h.counts hp).1

/-- While a block is compressed POS is 0, and LEN a multiple of 64 if a message byte closed it. -/
theorem State.steady.compressing (hp : s.phase.compressing = true) :
    s.pos = 0#6 ∧ (s.ret = .absorb → s.len.toNat % 64 = 0) := by
  rcases Phase.compressing_iff.mp hp with hp | hp | hp <;> exact (h.counts hp).2

/-- Such a state is none of those U5 leaves out. -/
theorem State.steady.not_excluded : s.excluded = false := by
  have hcause : s.err = true ↔ s.ecode ≠ .none := by rw [Ne, ← h.cause, Bool.not_eq_false]
  refine (State.excluded_eq_false_iff s).mpr ⟨h.2.1, fun hp => (h.counts hp).2, fun hp => ?_, h.t_eq_zero, hcause⟩
  rcases hp with hp | hp
  · exact (h.compressing hp).1
  · exact (h.counts hp).2

end

theorem State.inv_iff (s : State) : s.inv ↔ s.steady ∧ Memory.wf s.buf := by
  constructor
  · rintro ⟨⟨ht, hle, hret, habsorb, hdone, hpadLen, hpos, hcause⟩, hlen, hwf⟩
    refine ⟨⟨?_, hret, hcause⟩, hwf⟩
    cases hp : s.phase with
    | absorb => exact ⟨ht (by simp [hp]), habsorb hp⟩
    | padTerm | padZero => exact ht (by simp [hp])
    | padLen => exact ⟨ht (by simp [hp]), hpadLen hp⟩
    | load | fold => exact ⟨ht (by simp [hp]), hpos (by rw [hp]; rfl), hlen (by rw [hp]; rfl)⟩
    | round => exact ⟨hle, hpos (by rw [hp]; rfl), hlen (by rw [hp]; rfl)⟩
    | done => exact ⟨ht (by simp [hp]), hdone hp⟩
  · rintro ⟨h, hwf⟩
    have hle : s.t.toNat ≤ 79 := by
      by_cases hp : s.phase = .round
      · exact h.t_le hp
      · simp [h.t_eq_zero hp]
    exact ⟨⟨h.t_eq_zero, hle, h.2.1, fun hp => (h.counts hp).2, fun hp => (h.counts hp).2, fun hp => (h.counts hp).2,
      fun hp => (h.compressing hp).1, h.cause⟩, fun hp => (h.compressing hp).2, hwf⟩

theorem State.inv.steady {s : State} (h : s.inv) : s.steady := (s.inv_iff.mp h).1

/-- The checks name one of the three exceptions (R120, R124). -/
theorem State.admission_ne_none {s : State} {i : Instr} {c : Cause} (h : s.admission i = some c) : c ≠ .none := by
  rintro rfl
  cases i with
  | update | final | rddig =>
    dsimp only [State.admission] at h
    split_ifs at h <;> cases h
  | init | rdstat | padt | padz | padl | ldblk | rnd0 | rnd1 | rnd2 | rnd3 | fold => cases h

/-! ## Each operation keeps it -/

section
variable {s : State}

theorem State.steady_raise (h : s.steady) {c : Cause} (hc : c ≠ .none) : (s.raise c).steady := by
  obtain ⟨hcounts, hret, herr⟩ := h
  refine ⟨by simpa using hcounts, by simpa using hret, ?_⟩
  cases he : s.err with
  | true => simpa [he] using herr
  | false => simpa [he] using hc

/-- The state after INIT's and reset's writes, whatever the scratch registers hold. -/
theorem State.steady_initialise (s : State) : s.initialise.steady := ⟨⟨rfl, rfl⟩, rfl, ⟨fun _ => rfl, fun _ => rfl⟩⟩

/-- PutByte keeps it when the phases it goes to allow the new POS (R84). -/
theorem State.steady_putByte (b : Byte) {cont ret : Phase} (hret' : ret.isReturn = true) (hret : s.ret.isReturn = true)
    (herr : s.err = false ↔ s.ecode = .none) (hclose : s.pos = 63#6 → Phase.load.counts s.t 0#6 s.len ret)
    (hcont : s.pos ≠ 63#6 → cont.counts s.t (s.pos + 1#6) s.len s.ret) : (s.putByte b cont ret).steady := by
  refine ⟨?_, ?_, by simpa using herr⟩
  · by_cases hpos : s.pos = 63#6
    · simpa [hpos] using hclose hpos
    · simpa [hpos] using hcont hpos
  · rw [State.putByte_ret]
    split
    · exact hret'
    · exact hret

/-- A round keeps it: T counts to 79, then FOLD is entered with T = 0 (R103). -/
theorem State.steady_roundBy (h : s.steady) (k : BitVec 2) (hp : s.phase = .round) : (s.roundBy k).steady := by
  rw [State.roundBy_eq]
  obtain ⟨ht, hpos, hlen⟩ := h.counts hp
  obtain ⟨-, hret, herr⟩ := h
  refine ⟨?_, hret, herr⟩
  dsimp only
  split
  next h79 => exact ⟨rfl, hpos, hlen⟩
  next h79 =>
    rw [hp]
    exact ⟨by bv_omega, hpos, hlen⟩

/-- Every instruction that completes keeps it. -/
theorem Effect.steady {i : Instr} {t : State} (h : Effect s i t) (hs : s.steady) : t.steady := by
  obtain ⟨-, hret, herr⟩ := id hs
  cases h with
  | raises hq hi ha => exact State.steady_raise hs (State.admission_ne_none ha)
  | init hq => exact State.steady_initialise s
  | update hp he hl =>
    obtain ⟨ht, hpos⟩ := hs.counts hp
    have hlen := State.countByte_len_toNat hl
    have hpos' : s.countByte.pos = s.pos := rfl
    exact State.steady_putByte (s := s.countByte) _ rfl hret herr
      (fun h63 => ⟨ht, rfl, fun _ => by bv_omega⟩) fun h63 => ⟨ht, by bv_omega⟩
  | final hp he => exact ⟨(hs.counts hp).1, hret, herr⟩
  | rddig hp he hb => exact hs
  | rdstat hq => exact hs
  | padt hp | padzByte hp =>
    exact State.steady_putByte _ rfl hret herr (fun _ => ⟨hs.counts hp, rfl, nofun⟩) fun _ => hs.counts hp
  | padzEnd hp hpos => exact ⟨⟨hs.counts hp, by simp [hpos]⟩, hret, herr⟩
  | padl hp hpos =>
    exact State.steady_putByte _ rfl hret herr (fun _ => ⟨(hs.counts hp).1, rfl, nofun⟩) fun h63 =>
      ⟨(hs.counts hp).1, by bv_omega⟩
  | ldblk hp => exact ⟨⟨Nat.zero_le _, (hs.counts hp).2⟩, hret, herr⟩
  | round hp hk => exact State.steady_roundBy hs _ hp
  | fold hp hr =>
    obtain ⟨ht, hpos, hlen⟩ := hs.counts hp
    refine ⟨?_, hret, herr⟩
    rcases Phase.isReturn_iff.mp hr with hr | hr | hr <;> dsimp only <;> rw [hr]
    · exact ⟨ht, by rw [hpos, hlen hr]; rfl⟩
    · exact ht
    · exact ⟨ht, hpos⟩

/-- Every instruction that completes keeps the buffer in canonical form: PutByte writes at POS, which is below 64. -/
theorem Effect.wf_buf {i : Instr} {t : State} (h : Effect s i t) (hs : Memory.wf s.buf) : Memory.wf t.buf := by
  cases h with
  | raises => simpa using hs
  | init | final | rddig | rdstat | padzEnd | ldblk | fold => exact hs
  | update => simpa using Memory.wf_put _ s.pos.isLt hs
  | padt | padzByte | padl => simpa using Memory.wf_put _ s.pos.isLt hs
  | round => rwa [State.roundBy_eq]

end

section
variable {s t : State}

theorem State.steady.step (hs : s.steady) (h : step s = .next t) : t.steady :=
  StepEffect.keeps (P := State.steady) (fun _ _ hu => hu) (fun u => u.steady_initialise)
    (fun _ _ hu => State.steady_raise hu (by decide)) (fun _ _ _ hu heff => heff.steady hu) hs h

theorem State.steady.run {n : Nat} (hs : s.steady) (h : Host.Core.run Sys2Proof.core n s = .next t) : t.steady := by
  induction n generalizing s with
  | zero =>
    injection h with h
    exact h ▸ hs
  | succ n ih =>
    simp only [Host.Core.run] at h
    split at h
    next u hu => exact ih (hs.step hu) h
    next => cases h
    next => cases h

theorem wf_buf_step (hs : Memory.wf s.buf) (h : step s = .next t) : Memory.wf t.buf :=
  StepEffect.keeps (P := fun u => Memory.wf u.buf) (fun _ _ hu => hu) (fun _ => State.reset_buf_wf)
    (fun _ _ hu => by simpa using hu) (fun _ _ _ hu heff => heff.wf_buf hu) hs h

/-- Every step keeps the invariant. -/
theorem State.inv.step (hs : s.inv) (h : step s = .next t) : t.inv :=
  t.inv_iff.mpr ⟨hs.steady.step h, wf_buf_step (s.inv_iff.mp hs).2 h⟩

end

/-- A busy core raises nothing: its micro-operations keep ERR, and a reset clears it (R36 (i), R128). -/
theorem quiescent_of_raises {s t : State} (h : step s = .next t) (ht : t.err = true) (hs : s.err = false) :
    s.phase.quiescent = true := by
  by_contra hq
  cases StepEffect.of_step h with
  | reset hh => cases ht
  | illegal _ hq' | command _ hq' | wait _ hq' | hold _ hq' => exact hq hq'
  | micro _ _ _ hi heff =>
    obtain ⟨⟨herr, -⟩, -⟩ := exec_micro_samePorts hi heff.exec_eq
    exact absurd (herr.symm.trans ht) (by simp [hs])

/-- Settles O16: each instruction keeps the invariant, phase by phase, so every step does; and only a command raises. -/
theorem stepKeepsInvariant : Obligations.StepKeepsInvariant :=
  fun _ _ hs h => ⟨hs.step h, quiescent_of_raises h⟩

/-! ## It leaves a step -/

/-- In a quiescent phase every host command completes. -/
theorem exec_command_completes {s : State} {i : Instr} (hq : s.phase.quiescent = true) (hi : i.isCommand = true) :
    ∃ t, exec i s = .next t := by
  obtain ⟨effect, hexec⟩ := exec_isCommand hi s
  rw [hexec, State.command, if_pos hq]
  cases s.admission i <;> exact ⟨_, rfl⟩

theorem isCommand_of_decodeCommand {w : CmdWord} {i : Instr} (h : decodeCommand w = .ok i) : i.isCommand = true := by
  obtain ⟨-, -, hi⟩ := encodeOfDecodedCommand w i h
  exact hi

theorem State.transfer_completes {s : State} (w : CmdWord) (hq : s.phase.quiescent = true) :
    ∃ t, s.transfer w = .next t := by
  cases hw : decodeCommand w with
  | ok i =>
    rw [State.transfer_ok s hw]
    exact exec_command_completes hq (isCommand_of_decodeCommand hw)
  | error e => exact ⟨_, State.transfer_error s hw⟩

/-- In a busy phase a micro-operation completes unless T selects no round (U6). -/
theorem exec_micro_completes {s : State} (he : s.excluded = false) (hq : s.phase.quiescent = false)
    (ht : s.phase = .round → s.t.toNat ≤ 79) : ∃ i t, i.isCommand = false ∧ exec i s = .next t := by
  obtain ⟨hret, hpadLen, -, -, -⟩ := (State.excluded_eq_false_iff s).mp he
  cases hp : s.phase with
  | absorb | done => rw [hp] at hq; cases hq
  | padTerm => exact ⟨.padt, _, rfl, State.micro_selected _ hp⟩
  | padZero => exact ⟨.padz, _, rfl, State.micro_selected _ hp⟩
  | padLen => exact ⟨.padl, _, rfl, (Effect.padl hp (hpadLen hp)).exec_eq⟩
  | load => exact ⟨.ldblk, _, rfl, exec_ldblk hp⟩
  | round => exact exec_round_completes hp (ht hp)
  | fold => exact ⟨.fold, _, rfl, State.exec_fold hp hret⟩

/-- A step stops only in a state of U5 or U6. -/
theorem step_completes {s : State} (he : s.excluded = false) (ht : s.phase = .round → s.t.toNat ≤ 79) :
    ∃ t, step s = .next t := by
  by_cases hreset : ∃ rest, s.host = .reset :: rest
  · obtain ⟨rest, hh⟩ := hreset
    exact ⟨_, step_reset hh⟩
  · cases hq : s.phase.quiescent with
    | false =>
      obtain ⟨i, t, hi, hexec⟩ := exec_micro_completes (s := s.setHost (busyMoves s.host)) he hq ht
      exact ⟨t, (StepEffect.micro he hq (fun rest hh => hreset ⟨rest, hh⟩) hi (.of_exec hexec)).step_eq⟩
    | true =>
      match hh : s.host with
      | [] => exact ⟨_, (StepEffect.hold he hq hh).step_eq⟩
      | .wait :: rest => exact ⟨_, (StepEffect.wait he hq hh).step_eq⟩
      | .reset :: rest => exact absurd ⟨rest, hh⟩ hreset
      | .command w :: rest =>
        rw [step_command he hq hh]
        exact State.transfer_completes (s := s.setHost rest) w hq

/-- Settles O17: a state of the invariant is in neither U5 nor U6. -/
theorem stepNeverStops : Obligations.StepNeverStops :=
  fun _ hinv => step_completes hinv.not_excluded hinv.steady.t_le

/-! ## Where a step stops -/

/-- A state of U5 has no step but reset. -/
theorem step_excluded {s : State} (he : s.excluded = true) (hh : ∀ rest, s.host ≠ .reset :: rest) :
    step s = .fault .unreachableState := by
  rw [step_no_reset hh, if_pos he]

/-- ROUND with T above 79 has no step but reset (U6). -/
theorem step_no_round {s : State} (he : s.excluded = false) (hh : ∀ rest, s.host ≠ .reset :: rest)
    (hp : s.phase = .round) (ht : 80 ≤ s.t.toNat) : step s = .fault .noRoundSelected := by
  rw [step_micro he (by rw [hp]; rfl) hh]
  exact State.microStep_no_round (s := s.setHost (busyMoves s.host)) hp ht

/-- Settles O12: the sequencer stops in both kinds of state, and FOLD in one of them. -/
theorem unreachableStatesAreStuck : Obligations.UnreachableStatesAreStuck := by
  refine ⟨fun _ => step_excluded, fun _ => step_no_round, fun s hp hret => ?_⟩
  exact (State.micro_selected _ hp).trans (if_neg (by simp [hret]))

/-- Without a reset a step completes, or the state is of U5 or of U6. -/
theorem step_completes_or_stops (s : State) :
    (∃ t, step s = .next t)
    ∨ ((∀ rest, s.host ≠ .reset :: rest)
      ∧ ((s.excluded = true ∧ step s = .fault .unreachableState)
        ∨ (s.excluded = false ∧ s.phase = .round ∧ 80 ≤ s.t.toNat ∧ step s = .fault .noRoundSelected))) := by
  by_cases hreset : ∃ rest, s.host = .reset :: rest
  · obtain ⟨rest, hh⟩ := hreset
    exact .inl ⟨_, step_reset hh⟩
  · have hno : ∀ rest, s.host ≠ .reset :: rest := fun rest hh => hreset ⟨rest, hh⟩
    cases he : s.excluded with
    | true => exact .inr ⟨hno, .inl ⟨rfl, step_excluded he hno⟩⟩
    | false =>
      by_cases ht : s.phase = .round ∧ 80 ≤ s.t.toNat
      · exact .inr ⟨hno, .inr ⟨rfl, ht.1, ht.2, step_no_round he hno ht.1 ht.2⟩⟩
      · exact .inl (step_completes he fun hp => Nat.le_of_lt_succ (Nat.lt_of_not_le fun h80 => ht ⟨hp, h80⟩))

end Sys2Proof.Machine
end

section
/-! What else every step keeps: that the bytes LDBLK will read have been written (spec/20_memory.md R42), that A to E
are those of COMPRESS after T rounds (spec/44_compression_round.md R109), and that the error state is quiet
(spec/40_host_commands.md R67); and the values of STATUS that follow. -/

namespace Sys2Proof.Machine

/-! ## The bytes written (R42, R143) -/

/-- How many bytes, from address 0, the next LDBLK will find written: those the block has got so far. -/
def State.blockExtent (s : State) : Nat := if s.phase.compressing then 64 else s.pos.toNat

/-- The bytes below `n` have been written since the last reset. -/
def Memory.written (m : Memory) (n : Nat) : Prop := ∀ a, a < n → (m.get? a).isSome = true

theorem State.blockWritten_iff (s : State) : s.blockWritten ↔ Memory.written s.buf s.blockExtent := Iff.rfl

/-- The byte written after a written stretch extends it. -/
theorem Memory.written_put {m : Memory} {n : Nat} (b : Byte) (h : Memory.written m n) :
    Memory.written (m.put n b) (n + 1) := by
  intro a ha
  by_cases han : a = n
  · rw [han, Memory.get?_put_same]
    rfl
  · rw [Memory.get?_put_other m b han]
    exact h a (by omega)

theorem Phase.not_compressing_of_isReturn {p : Phase} (h : p.isReturn = true) : p.compressing = false := by
  rcases Phase.isReturn_iff.mp h with rfl | rfl | rfl <;> rfl

theorem Phase.not_compressing_of_quiescent {p : Phase} (h : p.quiescent = true) : p.compressing = false := by
  rcases Phase.quiescent_iff.mp h with rfl | rfl <;> rfl

theorem State.blockExtent_of_not_compressing {s : State} (h : s.phase.compressing = false) :
    s.blockExtent = s.pos.toNat := if_neg (by simp [h])

theorem State.blockExtent_le (s : State) : s.blockExtent ≤ 64 := by
  have := s.pos.isLt
  unfold State.blockExtent
  split <;> omega

theorem State.pos_le_blockExtent (s : State) : s.pos.toNat ≤ s.blockExtent := by
  have := s.pos.isLt
  unfold State.blockExtent
  split <;> omega

section
variable {s t : State}

/-- A step that keeps the buffer keeps its bytes written when the block's extent does not grow. -/
theorem State.blockWritten.of_le (h : s.blockWritten) (hbuf : t.buf = s.buf) (hle : t.blockExtent ≤ s.blockExtent) :
    t.blockWritten :=
  fun a ha => hbuf ▸ h a (Nat.lt_of_lt_of_le ha hle)

/-- PutByte writes the byte after those below POS (R84). -/
theorem State.blockWritten.putByte (h : s.blockWritten) (b : Byte) {cont : Phase} (ret : Phase)
    (hcont : cont.compressing = false) : (s.putByte b cont ret).blockWritten := by
  have hextent : (s.putByte b cont ret).blockExtent = s.pos.toNat + 1 := by
    by_cases h63 : s.pos = 63#6
    · simp [State.blockExtent, h63, Phase.compressing]
    · simp [State.blockExtent, h63, hcont]
      bv_omega
  have hbelow : Memory.written s.buf s.pos.toNat := fun a ha => h a (Nat.lt_of_lt_of_le ha s.pos_le_blockExtent)
  rw [State.blockWritten_iff, State.putByte_buf, hextent]
  exact Memory.written_put b hbelow

/-- Every instruction that completes keeps the bytes written. -/
theorem Effect.blockWritten {i : Instr} (h : Effect s i t) (hs : s.blockWritten) : t.blockWritten := by
  cases h with
  | raises hq hi ha => exact hs.of_le (s.raise_buf _) (by simp [State.blockExtent])
  | init hq => exact hs.of_le rfl (Nat.zero_le _)
  | update hp he hl => exact State.blockWritten.putByte (s := s.countByte) hs _ _ rfl
  | final hp he => exact hs.of_le rfl s.pos_le_blockExtent
  | rddig hp he hb => exact hs
  | rdstat hq => exact hs
  | padt hp | padzByte hp | padl hp => exact hs.putByte _ _ rfl
  | padzEnd hp hpos => exact hs.of_le rfl s.pos_le_blockExtent
  | ldblk hp =>
    have hall : s.blockExtent = 64 := if_pos (by rw [hp]; rfl)
    exact hs.of_le rfl (hall ▸ State.blockExtent_le _)
  | @round k hp hk =>
    have hall : s.blockExtent = 64 := if_pos (by rw [hp]; rfl)
    exact hs.of_le (by rw [State.roundBy_eq]) (hall ▸ State.blockExtent_le _)
  | fold hp hr =>
    have hextent : ({ s with acc := s.acc.add s.work, phase := s.ret } : State).blockExtent = s.pos.toNat :=
      State.blockExtent_of_not_compressing (Phase.not_compressing_of_isReturn hr)
    exact hs.of_le rfl (hextent ▸ s.pos_le_blockExtent)

end

/-- Settles O18: PutByte writes the byte the extent grows by, LDBLK, the rounds and FOLD write none, and INIT and reset
begin a block of no bytes. -/
theorem noUnwrittenByteIsRead : Obligations.NoUnwrittenByteIsRead :=
  fun _ _ _ hs h => StepEffect.keeps (P := State.blockWritten) (fun _ _ hu => hu) (fun _ => nofun)
    (fun _ _ hu => hu.of_le (State.raise_buf ..) (by simp [State.blockExtent]))
    (fun _ _ _ hu heff => heff.blockWritten hu) hs h

/-! ## The rounds (R103, R109) -/

/-- Outside ROUND and FOLD nothing is said of A to E. -/
theorem State.roundsHold_of_not_windowed {s : State} (h : s.phase.windowed = false) : s.roundsHold := by
  obtain ⟨hround, hfold⟩ : s.phase ≠ .round ∧ s.phase ≠ .fold := by simpa [Phase.windowed] using h
  exact ⟨fun hp => absurd hp hround, fun hp => absurd hp hfold⟩

/-- LDBLK seeds A to E from H (R86). -/
theorem State.roundsHold_loadBlock (s : State) (e : Event) : (s.loadBlock.emit e).roundsHold :=
  ⟨fun _ => rfl, fun hp => nomatch hp⟩

/-- A round takes A to E from T rounds of COMPRESS to T + 1, its schedule word being SR[0] (R103, R108). -/
theorem State.roundsHold_roundStep {s : State} (hp : s.phase = .round) (ht : s.t.toNat ≤ 79) (hw : s.windowHolds)
    (hs : s.roundsHold) : (s.roundBy (BitVec.ofNat 2 (s.t.toNat / 20))).roundsHold := by
  have hwork := hs.1 hp
  have hsr : s.sr[0] = schedule s.blockWords s.t.toNat := hw.1 hp 0 (by decide)
  have hnext : roundWork s.work
      (fsel (BitVec.ofNat 2 (s.t.toNat / 20)) s.work.b s.work.c s.work.d) s.sr[0]
      (klut (BitVec.ofNat 2 (s.t.toNat / 20))) = compressRounds s.acc s.blockWords (s.t.toNat + 1) := by
    rw [hsr, hwork]
    rfl
  rw [← s.roundBy_work] at hnext
  constructor
  · intro hround
    have h79 : s.t ≠ 79#7 := fun h79 => by simp [s.roundBy_phase _ hp, h79] at hround
    have hsucc : (s.t + 1#7).toNat = s.t.toNat + 1 := by bv_omega
    rw [hnext, State.roundBy_acc, State.roundBy_blockWords, State.roundBy_t, if_neg h79, hsucc]
  · intro hfold
    have h79 : s.t = 79#7 := by
      by_contra h79
      simp [s.roundBy_phase _ hp, h79] at hfold
    have heighty : s.t.toNat + 1 = 80 := by simp [h79]
    rw [hnext, State.roundBy_acc, State.roundBy_blockWords, heighty]

/-- The micro-operation of a busy phase keeps the working registers those of COMPRESS. -/
theorem State.roundsHold_microStep {s t : State} (hq : s.phase.quiescent = false) (hw : s.windowHolds)
    (hs : s.roundsHold) (h : s.microStep = .next t) : t.roundsHold := by
  rcases State.microStep_cases hq h with
    ⟨-, rfl⟩ | ⟨-, -, rfl⟩ | ⟨-, -, rfl⟩ | ⟨-, -, rfl⟩ | ⟨-, rfl⟩ | ⟨hp, ht, rfl⟩ | ⟨-, hret, rfl⟩
  · exact State.roundsHold_of_not_windowed (s.putByte_not_windowed _ _ rfl)
  · exact State.roundsHold_of_not_windowed rfl
  · exact State.roundsHold_of_not_windowed (s.putByte_not_windowed _ _ rfl)
  · exact State.roundsHold_of_not_windowed (s.putByte_not_windowed _ _ rfl)
  · exact s.roundsHold_loadBlock _
  · exact State.roundsHold_roundStep hp ht hw hs
  · exact State.roundsHold_of_not_windowed (Phase.not_windowed_of_isReturn hret)

/-- Settles O44: LDBLK starts the rounds from H, each round is one more of COMPRESS, and no other step ends in ROUND or
FOLD. -/
theorem workingStateOfRounds : Obligations.WorkingStateOfRounds := by
  intro s t _ hw hs h
  rcases step_cases h with ⟨rest, -, rfl⟩ | ⟨-, hq, hmove⟩ | ⟨-, hq, -, hmicro⟩
  · exact State.roundsHold_of_not_windowed rfl
  · rcases hmove with ⟨w, rest, -, hcmd⟩ | ⟨rest, -, rfl⟩ | ⟨-, rfl⟩
    · exact State.roundsHold_of_not_windowed (State.transfer_not_windowed (s := s.setHost rest) hq hcmd)
    · exact hs
    · exact hs
  · exact State.roundsHold_microStep (s := s.setHost (busyMoves s.host)) hq hw hs hmicro

/-! ## The error state (R67, R123, R128) -/

section
variable {s t : State}

/-- With ERR = 0 and no LENGTH_OVERFLOW standing, the error state is quiet in any phase. -/
theorem State.errorQuiet_of_err (he : s.err = false) (hc : s.ecode = .none) : s.errorQuiet :=
  ⟨fun _ => he, fun h => by rw [hc] at h; cases h⟩

/-- Exception entry in a quiescent phase is quiet when LENGTH_OVERFLOW is raised in ABSORB only. -/
theorem State.errorQuiet_raise (hs : s.errorQuiet) (hq : s.phase.quiescent = true) {c : Cause}
    (hc : c = .lengthOverflow → s.phase = .absorb) : (s.raise c).errorQuiet := by
  refine ⟨fun hb => ?_, fun h => ?_⟩
  · rw [State.raise_phase, hq] at hb
    cases hb
  · rw [State.raise_phase]
    rw [State.raise_ecode] at h
    split at h
    · exact hs.2 h
    · exact hc h

/-- LENGTH_OVERFLOW is raised by UPDATE in ABSORB only (R123, R124). -/
theorem State.absorb_of_admission_lengthOverflow {i : Instr} (h : s.admission i = some .lengthOverflow) :
    s.phase = .absorb := by
  cases i with
  | update b =>
    by_contra hp
    dsimp only [State.admission] at h
    split_ifs at h <;> cases h
  | final | rddig =>
    dsimp only [State.admission] at h
    split_ifs at h <;> cases h
  | init | rdstat | padt | padz | padl | ldblk | rnd0 | rnd1 | rnd2 | rnd3 | fold => cases h

/-- Every instruction that completes keeps the error state quiet: a command that does not
raise leaves ERR = 0 or a quiescent phase, and a micro-operation leaves ERR. -/
theorem Effect.errorQuiet {i : Instr} (h : Effect s i t) (hsteady : s.steady) (hs : s.errorQuiet) : t.errorQuiet := by
  have hcause : s.err = false → s.ecode = .none := hsteady.cause.mp
  have hmicro (hi : i.isCommand = false) (hq : s.phase.quiescent = false) : t.errorQuiet := by
    obtain ⟨herr, hecode⟩ := (exec_micro_samePorts hi h.exec_eq).1
    exact State.errorQuiet_of_err (herr.trans (hs.1 hq)) (hecode.trans (hcause (hs.1 hq)))
  cases h with
  | raises hq hi ha => exact State.errorQuiet_raise hs hq fun hc => State.absorb_of_admission_lengthOverflow (hc ▸ ha)
  | init hq => exact State.errorQuiet_of_err rfl rfl
  | update hp he hl => exact State.errorQuiet_of_err (by simpa using he) (by simpa using hcause he)
  | final hp he => exact State.errorQuiet_of_err he (hcause he)
  | rddig hp he hb => exact hs
  | rdstat hq => exact hs
  | padt hp | padzEnd hp | padzByte hp | padl hp | ldblk hp | fold hp => exact hmicro rfl (by rw [hp]; rfl)
  | round hp => exact hmicro (isCommand_roundOf _) (by rw [hp]; rfl)

end

/-- STATUS by PHASE and ECODE, when ERR is set exactly with a cause standing (R32). -/
theorem State.status_of {s : State} {p : Phase} {c : Cause} (hp : s.phase = p) (hc : s.ecode = c)
    (herr : s.err = false ↔ s.ecode = .none) :
    s.status = 0#1 ++ p.code ++ c.code ++ BitVec.ofBool (c ≠ .none) ++ BitVec.ofBool (p = .done && c = .none) := by
  have he : s.err = decide (c ≠ .none) := by
    rw [hc] at herr
    cases he : s.err with
    | true => simpa [he] using herr
    | false => simpa [he] using herr
  simp [State.status, State.dv, hp, hc, he]

/-- In a quiescent phase STATUS has one of seven values (R67). -/
theorem State.status_mem {s : State} (hinv : s.inv) (hs : s.errorQuiet) (hq : s.phase.quiescent = true) :
    s.status ∈ [0x00#8, 0x71#8, 0x06#8, 0x0A#8, 0x0E#8, 0x76#8, 0x7A#8] := by
  have herr := hinv.steady.cause
  rcases Phase.quiescent_iff.mp hq with hp | hp
  · cases hc : s.ecode with
    | none | illegalCommand | protocol | lengthOverflow =>
      rw [State.status_of hp hc herr]
      decide
  · cases hc : s.ecode with
    | none | illegalCommand | protocol =>
      rw [State.status_of hp hc herr]
      decide
    | lengthOverflow => exact absurd (hp.symm.trans (hs.2 hc)) (by decide)

/-- Settles O24: the cause and ERR agree, and LENGTH_OVERFLOW stands only in ABSORB, which leaves seven of the sixteen
combinations of phase and cause. -/
theorem statusValues : Obligations.StatusValues := by
  refine ⟨fun _ hinv hs hq => State.status_mem hinv hs hq, fun s t hinv hs h => ?_⟩
  exact (StepEffect.keeps (P := fun u => u.steady ∧ u.errorQuiet) (fun _ _ hu => hu)
    (fun u => ⟨u.steady_initialise, State.errorQuiet_of_err rfl rfl⟩)
    (fun _ hq hu => ⟨State.steady_raise hu.1 (by decide), State.errorQuiet_raise hu.2 hq nofun⟩)
    (fun _ _ _ hu heff => ⟨heff.steady hu.1, heff.errorQuiet hu.1 hu.2⟩) ⟨hinv.steady, hs⟩ h).2

end Sys2Proof.Machine
end

section
/-! One byte through PutByte (spec/42_block_splitter.md R84) and the instructions that put one: UPDATE (R64) and the
padder's PADT, PADZ and PADL (spec/41_padder.md R76 to R78); with FINAL and RDSTAT, which put none (R65, R67). -/

namespace Sys2Proof.Machine

/-! ## PutByte -/

section
variable (s : State) (b : Byte) (cont ret : Phase)

theorem State.bufByte_putByte_pos : (s.putByte b cont ret).bufByte s.pos.toNat = b := by
  rw [State.bufByte_putByte, if_pos rfl]

theorem State.sameBufferBut_putByte : s.sameBufferBut (s.putByte b cont ret) s.pos.toNat := by
  intro a ha
  rw [State.bufByte_putByte, if_neg ha]

variable {s}

/-- The byte at offset 63 closes the block. -/
theorem State.putByte_last (h : s.pos.toNat = 63) :
    (s.putByte b cont ret).pos = 0#6 ∧ (s.putByte b cont ret).ret = ret ∧ (s.putByte b cont ret).phase = .load := by
  have hpos : s.pos = 63#6 := BitVec.eq_of_toNat_eq h
  simp [hpos]

/-- Any other byte moves POS by one. -/
theorem State.putByte_not_last (h : s.pos.toNat < 63) :
    (s.putByte b cont ret).pos.toNat = s.pos.toNat + 1 ∧ (s.putByte b cont ret).ret = s.ret
      ∧ (s.putByte b cont ret).phase = cont := by
  have hpos : s.pos ≠ 63#6 := fun hpos => by simp [hpos] at h
  refine ⟨?_, by simp [hpos], by simp [hpos]⟩
  rw [State.putByte_pos]
  bv_omega

end

/-! ## What the padder leaves unchanged -/

/-- All that no micro-operation of the padder writes is the same (R76 to R78). -/
def State.padFrame (s t : State) : Prop :=
  t.acc = s.acc ∧ s.sameScratchRegisters t ∧ t.len = s.len ∧ t.t = s.t ∧ s.sameStatus t ∧ t.resp = s.resp
  ∧ t.trace = s.trace ∧ s.sameInputs t

theorem State.padFrame_refl (s : State) : s.padFrame s :=
  ⟨rfl, ⟨rfl, rfl⟩, rfl, rfl, ⟨rfl, rfl⟩, rfl, rfl, rfl, rfl⟩

theorem State.padFrame.trans {s t u : State} (h : s.padFrame t) (h' : t.padFrame u) : s.padFrame u := by
  obtain ⟨hacc, ⟨hwork, hsr⟩, hlen, ht, ⟨herr, hecode⟩, hresp, htrace, hhost, hresets⟩ := h
  obtain ⟨hacc', ⟨hwork', hsr'⟩, hlen', ht', ⟨herr', hecode'⟩, hresp', htrace', hhost', hresets'⟩ := h'
  exact ⟨hacc'.trans hacc, ⟨hwork'.trans hwork, hsr'.trans hsr⟩, hlen'.trans hlen, ht'.trans ht,
    ⟨herr'.trans herr, hecode'.trans hecode⟩, hresp'.trans hresp, htrace'.trans htrace, hhost'.trans hhost,
    hresets'.trans hresets⟩

theorem State.padFrame_putByte (s : State) (b : Byte) (cont ret : Phase) : s.padFrame (s.putByte b cont ret) :=
  ⟨s.putByte_acc .., ⟨s.putByte_work .., s.putByte_sr ..⟩, s.putByte_len .., s.putByte_t ..,
    ⟨s.putByte_err .., s.putByte_ecode ..⟩, s.putByte_resp .., s.putByte_trace .., s.putByte_host ..,
    s.putByte_resets ..⟩

/-! ## The padder -/

/-- Settles O28: PADT is PutByte of 0x80 (R76). -/
theorem padtWritesTerminator : Obligations.PadtWritesTerminator := by
  intro s hp
  exact ⟨_, (Effect.padt hp).exec_eq, s.bufByte_putByte_pos .., s.sameBufferBut_putByte _ _ _,
    State.putByte_last _ _ _, State.putByte_not_last _ _ _, s.padFrame_putByte ..⟩

/-- Settles O29: at offset 56 PADZ writes PHASE alone, elsewhere it is PutByte of 0x00 (R77). -/
theorem padzFillsToOffset56 : Obligations.PadzFillsToOffset56 := by
  intro s hp
  by_cases hpos : s.pos = 56#6
  · have h56 : s.pos.toNat = 56 := by rw [hpos]; rfl
    exact ⟨_, (Effect.padzEnd hp hpos).exec_eq, fun _ => ⟨rfl, rfl, rfl, State.bufByte_congr rfl rfl⟩,
      fun hne => absurd h56 hne, fun h63 => by omega, fun hne => absurd h56 hne, s.padFrame_refl⟩
  · have h56 : s.pos.toNat ≠ 56 := fun h56 => hpos (BitVec.eq_of_toNat_eq h56)
    exact ⟨_, (Effect.padzByte hp hpos).exec_eq, fun h => absurd h h56,
      fun _ => ⟨s.bufByte_putByte_pos .., s.sameBufferBut_putByte _ _ _⟩, State.putByte_last _ _ _,
      fun _ => State.putByte_not_last _ _ _, s.padFrame_putByte ..⟩

/-- BITLEN is LEN times 8, with no bit lost (R25). -/
theorem State.bitLen_toNat (s : State) : s.bitLen.toNat = s.len.toNat * 8 := by
  have := s.len.isLt
  rw [State.bitLen_eq, BitVec.toNat_ofNat, Nat.mod_eq_of_lt (by omega)]

/-- Settles O30: PADL is PutByte of byte POS - 56 of BITLEN (R78). -/
theorem padlWritesTrailerByte : Obligations.PadlWritesTrailerByte := by
  intro s hp hpos
  have hlt := s.pos.isLt
  have hbyte : s.trailerByte.toNat = s.len.toNat * 8 / 2 ^ (8 * (63 - s.pos.toNat)) % 256 := by
    rw [State.trailerByte, byte64_toNat _ (by omega), s.bitLen_toNat,
      show 7 - (s.pos.toNat - 56) = 63 - s.pos.toNat by omega]
  exact ⟨_, (Effect.padl hp hpos).exec_eq, by rw [State.bufByte_putByte_pos, hbyte], s.sameBufferBut_putByte _ _ _,
    State.putByte_last _ _ _, State.putByte_not_last _ _ _, s.padFrame_putByte ..⟩

/-! ## UPDATE, FINAL and RDSTAT -/

/-- Settles O20: an admitted UPDATE is PutByte with LEN counted (R64). -/
theorem updateAbsorbsAByte : Obligations.UpdateAbsorbsAByte := by
  intro s b he hp hlen
  obtain ⟨hacc, hscratch, hlen', ht, hstatus, -, htrace, hinputs⟩ := s.countByte.padFrame_putByte b .absorb .absorb
  have hcount := State.countByte_len_toNat (s := s) (by omega)
  have hcont (h63 : s.pos.toNat < 63) := State.putByte_not_last (s := s.countByte) b .absorb .absorb h63
  exact ⟨_, (Effect.update hp he (by omega)).exec_eq, hlen' ▸ hcount, s.countByte.bufByte_putByte_pos ..,
    s.countByte.sameBufferBut_putByte _ _ _, State.putByte_last (s := s.countByte) _ _ _, hcont, rfl, hacc, hscratch,
    ht, hstatus, htrace, hinputs⟩

/-- Settles O21: an admitted FINAL writes PHASE and the response (R65). -/
theorem finalStartsPadding : Obligations.FinalStartsPadding := by
  intro s he hp
  exact ⟨_, (Effect.final hp he).exec_eq, rfl, rfl, rfl, ⟨rfl, rfl⟩, State.bufByte_congr rfl rfl, ⟨rfl, rfl⟩, rfl, rfl,
    ⟨rfl, rfl⟩, rfl, rfl, rfl⟩

/-- The fields of STATUS as a number (R32). -/
theorem State.status_toNat (s : State) :
    s.status.toNat = (if s.phase = .done ∧ s.err = false then 1 else 0) + (if s.err then 2 else 0)
      + 4 * s.ecode.code.toNat + 16 * s.phase.code.toNat := by
  rw [State.status, State.dv]
  cases s.phase <;> cases s.ecode <;> cases s.err <;> decide

/-- Settles O23: RDSTAT answers STATUS, and writes the response alone (R67). -/
theorem rdstatReturnsStatus : Obligations.RdstatReturnsStatus :=
  fun s hq => ⟨_, exec_rdstat hq, (respOk_toNat _).trans s.status_toNat⟩

end Sys2Proof.Machine
end

section
/-! How many micro-operations a transaction has left (spec/70_reset_and_hazards.md R152): every one that completes
takes one off, and none are left exactly in a quiescent phase. So a transaction ends, after the count R152 gives, and
taking it as one function comes to the same (spec/40_host_commands.md R62). -/

namespace Sys2Proof.Machine

/-! ## The count -/

/-- The micro-operations from PAD_ZERO with POS at `n`, where 64 is a block just closed with RET = PAD_ZERO. Up to
offset 56 the fill, its end, the trailer and a block; past it the rest of this block, the block, and a fill from 0
(R152). -/
def fillOps (n : Nat) : Nat := if n ≤ 56 then 56 - n + 1 + 8 + 82 else 64 - n + 82 + 147

/-- The micro-operations after FOLD, by the phase it goes to with POS = 0. -/
def Phase.opsAfterFold (ret : Phase) : Nat := if ret = .padZero then 147 else 0

/-- The micro-operations of the transaction that are still to come. -/
def State.opsLeft (s : State) : Nat :=
  match s.phase with
  | .absorb => 0
  | .padTerm => 1 + fillOps (s.pos.toNat + 1)
  | .padZero => fillOps s.pos.toNat
  | .padLen => 64 - s.pos.toNat + 82
  | .load => 82 + s.ret.opsAfterFold
  | .round => 81 - s.t.toNat + s.ret.opsAfterFold
  | .fold => 1 + s.ret.opsAfterFold
  | .done => 0

theorem fillOps_zero : fillOps 0 = 147 := rfl

/-- A zero byte away from offset 56 takes one off, whether or not it closes the block. -/
theorem fillOps_succ {n : Nat} (hn : n < 64) (h56 : n ≠ 56) : fillOps n = fillOps (n + 1) + 1 := by
  unfold fillOps
  split <;> split <;> omega

theorem Phase.opsAfterFold_le (ret : Phase) : ret.opsAfterFold ≤ 147 := by
  unfold Phase.opsAfterFold
  split <;> omega

theorem fillOps_le (n : Nat) : fillOps n ≤ 236 := by
  unfold fillOps
  split <;> omega

/-- The greatest count is R152's. -/
theorem State.opsLeft_le (s : State) : s.opsLeft ≤ maxMicroOps := by
  have hafter := s.ret.opsAfterFold_le
  have hterm := fillOps_le (s.pos.toNat + 1)
  have hzero := fillOps_le s.pos.toNat
  unfold State.opsLeft maxMicroOps
  split <;> omega

/-- In a busy steady state something is left. -/
theorem State.opsLeft_pos {s : State} (hs : s.steady) (hq : s.phase.quiescent = false) : 0 < s.opsLeft := by
  have hpos := s.pos.isLt
  cases hp : s.phase with
  | absorb | done => rw [hp] at hq; cases hq
  | padTerm => simp [State.opsLeft, hp]
  | padZero =>
    simp only [State.opsLeft, hp, fillOps]
    split <;> omega
  | padLen | load | fold => simp [State.opsLeft, hp]
  | round =>
    have ht := hs.t_le hp
    simp only [State.opsLeft, hp]
    omega

theorem State.opsLeft_of_quiescent {s : State} (hq : s.phase.quiescent = true) : s.opsLeft = 0 := by
  rcases Phase.quiescent_iff.mp hq with hp | hp <;> simp [State.opsLeft, hp]

/-- PutByte with RET = PAD_ZERO leaves the fill from the next offset. -/
theorem State.opsLeft_putByte_padZero (s : State) (b : Byte) :
    (s.putByte b .padZero .padZero).opsLeft = fillOps (s.pos.toNat + 1) := by
  by_cases h63 : s.pos = 63#6
  · simp [State.opsLeft, h63, Phase.opsAfterFold, fillOps]
  · have hsucc : (s.pos + 1#6).toNat = s.pos.toNat + 1 := by bv_omega
    simp only [State.opsLeft, State.putByte_phase, if_neg h63, State.putByte_pos, hsucc]

/-- The trailer byte at offset 63 is the last before the block (R78). -/
theorem State.opsLeft_putByte_padLen (s : State) (b : Byte) :
    (s.putByte b .padLen .done).opsLeft = 63 - s.pos.toNat + 82 := by
  by_cases h63 : s.pos = 63#6
  · simp [State.opsLeft, h63, Phase.opsAfterFold]
  · have hsucc : (s.pos + 1#6).toNat = s.pos.toNat + 1 := by bv_omega
    simp only [State.opsLeft, State.putByte_phase, if_neg h63, State.putByte_pos, hsucc]
    omega

/-- Every micro-operation that completes in a steady state takes one off. -/
theorem Effect.opsLeft {s t : State} {i : Instr} (h : Effect s i t) (hi : i.isCommand = false) (hs : s.steady) :
    s.opsLeft = t.opsLeft + 1 := by
  have hpos := s.pos.isLt
  cases h with
  | raises _ hc => rw [hi] at hc; cases hc
  | init | update | final | rddig | rdstat => cases hi
  | padt hp =>
    rw [State.opsLeft_putByte_padZero]
    simp only [State.opsLeft, hp]
    omega
  | padzEnd hp h56 => simp [State.opsLeft, hp, h56, fillOps]
  | padzByte hp h56 =>
    rw [State.opsLeft_putByte_padZero]
    simp only [State.opsLeft, hp]
    exact fillOps_succ hpos fun h => h56 (BitVec.eq_of_toNat_eq h)
  | padl hp h56 =>
    rw [State.opsLeft_putByte_padLen]
    simp only [State.opsLeft, hp]
    omega
  | ldblk hp =>
    simp [State.opsLeft, hp]
    omega
  | @round k hp =>
    have ht := hs.t_le hp
    simp only [State.opsLeft, hp, s.roundBy_phase k hp, State.roundBy_ret, State.roundBy_t]
    by_cases h79 : s.t = 79#7
    · simp [h79]
      omega
    · have hsucc : (s.t + 1#7).toNat = s.t.toNat + 1 := by bv_omega
      simp [h79]
      omega
  | fold hp hr =>
    obtain ⟨-, hpos, -⟩ := hs.counts hp
    rcases Phase.isReturn_iff.mp hr with hr | hr | hr
    · simp [State.opsLeft, hp, hr, Phase.opsAfterFold]
    · simp [State.opsLeft, hp, hr, Phase.opsAfterFold, hpos, fillOps_zero]
    · simp [State.opsLeft, hp, hr, Phase.opsAfterFold]

/-! ## Where the padder ends -/

/-- The padder is at work, or the block it closed is being compressed, or it has ended with RET = DONE. -/
def State.padding (s : State) : Prop :=
  match s.phase with
  | .absorb => False
  | .padTerm => True
  | .padZero => True
  | .padLen => True
  | .load => s.ret ≠ .absorb
  | .round => s.ret ≠ .absorb
  | .fold => s.ret ≠ .absorb
  | .done => s.ret = .done

theorem State.padding_putByte (s : State) (b : Byte) {cont ret : Phase} (hcont : cont = .padZero ∨ cont = .padLen)
    (hret : ret ≠ .absorb) : (s.putByte b cont ret).padding := by
  by_cases h63 : s.pos = 63#6
  · simpa [State.padding, h63] using hret
  · rcases hcont with rfl | rfl <;> simp [State.padding, h63]

/-- A micro-operation of the padder, or of a block it closed, leads to another or to DONE. -/
theorem Effect.padding {s t : State} {i : Instr} (h : Effect s i t) (hi : i.isCommand = false) (hs : s.padding) :
    t.padding := by
  cases h with
  | raises _ hc => rw [hi] at hc; cases hc
  | init | update | final | rddig | rdstat => cases hi
  | padt | padzByte => exact s.padding_putByte _ (.inl rfl) (by decide)
  | padl => exact s.padding_putByte _ (.inr rfl) (by decide)
  | padzEnd => trivial
  | ldblk hp => simpa [State.padding, hp] using hs
  | @round k hp =>
    have hne : s.ret ≠ .absorb := by simpa [State.padding, hp] using hs
    by_cases h79 : s.t = 79#7 <;> simpa [State.padding, s.roundBy_phase k hp, h79] using hne
  | fold hp hr =>
    have hne : s.ret ≠ .absorb := by simpa [State.padding, hp] using hs
    rcases Phase.isReturn_iff.mp hr with hr | hr | hr
    · exact absurd hr hne
    · simp [State.padding, hr]
    · simp [State.padding, hr]

/-! ## The run to quiescence -/

/-- In a busy steady state a micro-operation completes, and is the step. -/
theorem exists_busy_step {s : State} (hs : s.steady) (hq : s.phase.quiescent = false) (hh : quietHost s.host) :
    ∃ i t, i.isCommand = false ∧ Effect s i t ∧ s.microStep = .next t ∧ step s = .next t := by
  obtain ⟨i, t, hi, hexec⟩ := exec_micro_completes hs.not_excluded hq hs.t_le
  have heff := Effect.of_exec hexec
  exact ⟨i, t, hi, heff, heff.microStep_eq hi, heff.step_eq hi hs.not_excluded hq hh⟩

/-- The micro-operations of a transaction leave LEN, the status and the ports (R35, R128). -/
def State.settles (s t : State) : Prop := t.len = s.len ∧ s.samePorts t

theorem State.settles.trans {s t u : State} (h : s.settles t) (h' : t.settles u) : s.settles u := by
  obtain ⟨hlen, ⟨herr, hecode⟩, hresp, hhost, hresets⟩ := h
  obtain ⟨hlen', ⟨herr', hecode'⟩, hresp', hhost', hresets'⟩ := h'
  exact ⟨hlen'.trans hlen, ⟨herr'.trans herr, hecode'.trans hecode⟩, hresp'.trans hresp, hhost'.trans hhost,
    hresets'.trans hresets⟩

theorem State.settles.host {s t : State} (h : s.settles t) : t.host = s.host := by
  obtain ⟨-, -, -, hhost, -⟩ := h
  exact hhost

theorem State.settles.resp {s t : State} (h : s.settles t) : t.resp = s.resp := by
  obtain ⟨-, -, hresp, -⟩ := h
  exact hresp

theorem Effect.settles {s t : State} {i : Instr} (h : Effect s i t) (hi : i.isCommand = false) : s.settles t := by
  refine ⟨?_, exec_micro_samePorts hi h.exec_eq⟩
  cases h with
  | raises _ hc => rw [hi] at hc; cases hc
  | init | update | final | rddig | rdstat => cases hi
  | padt | padzByte | padl => exact State.putByte_len ..
  | padzEnd | ldblk | fold => rfl
  | round => rw [State.roundBy_eq]

/-- The first micro-operations of a transaction, as many as are left, complete one a step. -/
theorem run_micro {s : State} (hs : s.steady) (hh : quietHost s.host) {k : Nat} (hk : k ≤ s.opsLeft) :
    ∃ t, Host.Core.run Sys2Proof.core k s = .next t ∧ t.steady ∧ s.opsLeft = t.opsLeft + k ∧ s.settles t
      ∧ (s.padding → t.padding) := by
  induction k with
  | zero => exact ⟨s, rfl, hs, rfl, ⟨rfl, ⟨rfl, rfl⟩, rfl, rfl, rfl⟩, id⟩
  | succ k ih =>
    obtain ⟨t, hrun, ht, hleft, hsettles, hpadding⟩ := ih (by omega)
    have hq : t.phase.quiescent = false := by
      by_contra hq
      have := State.opsLeft_of_quiescent (Bool.not_eq_false _ ▸ hq)
      omega
    have hth : quietHost t.host := by
      rw [hsettles.host]
      exact hh
    obtain ⟨i, u, hi, heff, -, hstep⟩ := exists_busy_step ht hq hth
    have hone := heff.opsLeft hi ht
    exact ⟨u, (run_add 1 hrun).trans (run_one hstep), heff.steady ht, by omega, hsettles.trans (heff.settles hi),
      fun hpad => heff.padding hi (hpadding hpad)⟩

/-- After all of them the core is quiescent. -/
theorem run_opsLeft {s : State} (hs : s.steady) (hh : quietHost s.host) :
    ∃ t, Host.Core.run Sys2Proof.core s.opsLeft s = .next t ∧ t.steady ∧ t.phase.quiescent = true ∧ s.settles t
      ∧ (s.padding → t.padding) := by
  obtain ⟨t, hrun, ht, hleft, hsettles, hpadding⟩ := run_micro hs hh (Nat.le_refl _)
  refine ⟨t, hrun, ht, ?_, hsettles, hpadding⟩
  by_contra hq
  have := State.opsLeft_pos ht (Bool.not_eq_true _ ▸ hq)
  omega

/-- Before the last of them the core is busy. -/
theorem run_lt_opsLeft {s : State} (hs : s.steady) (hh : quietHost s.host) {k : Nat} (hk : k < s.opsLeft) :
    ∃ t, Host.Core.run Sys2Proof.core k s = .next t ∧ t.phase.quiescent = false := by
  obtain ⟨t, hrun, -, hleft, -⟩ := run_micro hs hh (Nat.le_of_lt hk)
  refine ⟨t, hrun, ?_⟩
  by_contra hq
  have := State.opsLeft_of_quiescent (Bool.not_eq_false _ ▸ hq)
  omega

/-- Part (3) of the transaction as one function is those steps (R62). -/
theorem quiesce_eq_run {s : State} (hs : s.steady) (hh : quietHost s.host) {fuel : Nat} (hfuel : s.opsLeft ≤ fuel) :
    State.quiesce fuel s = Host.Core.run Sys2Proof.core s.opsLeft s := by
  induction fuel generalizing s with
  | zero =>
    rw [Nat.le_zero.mp hfuel]
    rfl
  | succ fuel ih =>
    rw [State.quiesce]
    cases hq : s.phase.quiescent with
    | true =>
      rw [State.opsLeft_of_quiescent hq]
      rfl
    | false =>
      obtain ⟨i, t, hi, heff, hmicro, hstep⟩ := exists_busy_step hs hq hh
      have hone := heff.opsLeft hi hs
      have hth : quietHost t.host := by
        rw [(heff.settles hi).host]
        exact hh
      rw [hmicro, hone, Nat.add_comm, run_add _ (run_one hstep)]
      exact ih (heff.steady hs) hth (by omega)

/-! ## Transactions -/

/-- A command leaves the host's next moves, and a response (R62). -/
theorem Effect.command_ports {s t : State} {i : Instr} (h : Effect s i t) (hi : i.isCommand = true) :
    s.sameInputs t ∧ t.resp.isSome = true := by
  cases h with
  | raises => exact ⟨⟨s.raise_host _, s.raise_resets _⟩, by simp⟩
  | update => exact ⟨⟨s.absorbByte_host _, s.absorbByte_resets _⟩, rfl⟩
  | init | final | rddig | rdstat => exact ⟨⟨rfl, rfl⟩, rfl⟩
  | padt | padzEnd | padzByte | padl | ldblk | fold => cases hi
  | round => simp at hi

theorem State.transfer_ports {s t : State} {w : CmdWord} (h : s.transfer w = .next t) :
    t.host = s.host ∧ t.resp.isSome = true := by
  rcases State.transfer_cases h with ⟨i, hw, hexec⟩ | ⟨-, rfl⟩
  · exact (Effect.of_exec hexec).command_ports (isCommand_of_decodeCommand hw) |>.imp_left And.left
  · simp

/-- Settles O55: the command's effect leaves at most 237 micro-operations, and both ways run exactly those. -/
theorem transactionIsItsSteps : Obligations.TransactionIsItsSteps := by
  intro s w rest hinv hq hh hquiet
  have hstep := step_command hinv.not_excluded hq hh
  obtain ⟨u, hu⟩ := State.transfer_completes (s := s.setHost rest) w hq
  obtain ⟨huhost, huresp⟩ := State.transfer_ports hu
  have husteady : u.steady := hinv.steady.step (hstep.trans hu)
  have huquiet : quietHost u.host := huhost ▸ hquiet
  obtain ⟨t, hrun, -, htq, hsettles, -⟩ := run_opsLeft husteady huquiet
  refine ⟨u.opsLeft, t, u.opsLeft_le, ?_, ?_, htq, ?_⟩
  · rw [Nat.add_comm, run_add _ (run_one (hstep.trans hu)), hrun]
  · rw [State.transaction, hu]
    exact (quiesce_eq_run husteady huquiet u.opsLeft_le).trans hrun
  · show (t.phase.quiescent && t.resp.isSome) = true
    rw [htq, hsettles.resp, huresp]
    rfl

/-- What FINAL leaves to do is R152's count. -/
theorem opsLeft_final {l : Nat} : 1 + fillOps (l % 64 + 1) = finalMicroOps l := by
  have hfill := zeroFill_le l
  have hmod := zeroFill_mod l
  unfold fillOps finalMicroOps
  split <;> split <;> omega

/-- A step of a core that absorbs with no error standing, when the host offers FINAL (R65). -/
theorem step_final {s : State} {rest : List HostMove} (hs : s.steady) (hp : s.phase = .absorb) (he : s.err = false)
    (hh : s.host = .command 0x200#12 :: rest) : step s = .next (s.setHost rest).startPadding := by
  have hq : s.phase.quiescent = true := Phase.quiescent_iff.mpr (.inl hp)
  have heff := Effect.final (s := s.setHost rest) hp he
  exact (step_exec hs.not_excluded hq hh decodeCommand_final).trans heff.exec_eq

/-- FINAL leaves R152's count of micro-operations. -/
theorem State.opsLeft_startPadding {s : State} (hs : s.steady) (hp : s.phase = .absorb) :
    s.startPadding.opsLeft = finalMicroOps s.len.toNat := by
  have hpos : s.pos.toNat = s.len.toNat % 64 := (hs.counts hp).2
  rw [← opsLeft_final, ← hpos]
  rfl

/-- A core that is padding is quiescent only in DONE, with RET = DONE. -/
theorem State.padding.done {s : State} (h : s.padding) (hq : s.phase.quiescent = true) :
    s.phase = .done ∧ s.ret = .done := by
  rcases Phase.quiescent_iff.mp hq with hp | hp
  · simp [State.padding, hp] at h
  · exact ⟨hp, by simpa [State.padding, hp] using h⟩

/-- Settles O57: FINAL leaves R152's count of micro-operations, which end in DONE since the padder's do. -/
theorem finalReachesDone : Obligations.FinalReachesDone := by
  intro s rest hinv hp he hh hquiet
  have hstep := step_final hinv.steady hp he hh
  have hsteady := hinv.steady.step hstep
  have hleft : (s.setHost rest).startPadding.opsLeft = finalMicroOps s.len.toNat :=
    State.opsLeft_startPadding (s := s.setHost rest) hinv.steady hp
  rw [← hleft]
  constructor
  · obtain ⟨t, hrun, ht, htq, ⟨hlen, ⟨herr, -⟩, hresp, hhost, -⟩, hpadding⟩ := run_opsLeft hsteady hquiet
    obtain ⟨htp, hret⟩ := (hpadding trivial).done htq
    obtain ⟨hzero, hpos⟩ := ht.counts htp
    have hterr : t.err = false := herr.trans he
    have hdv : t.dv = true := by simp [State.dv, htp, hterr]
    exact ⟨t, (run_add _ (run_one hstep)).trans hrun, htp, hdv, hlen, hpos, hzero, hret, hresp, hhost⟩
  · intro k h1 hk
    obtain ⟨j, rfl⟩ := Nat.exists_eq_add_of_le h1
    rw [run_add _ (run_one hstep)]
    exact run_lt_opsLeft hsteady hquiet (by omega)

end Sys2Proof.Machine
end

section
/-! A block from LOAD to FOLD as the trace consumer and the host see it: its events (spec/60_exceptions.md R138), and
the UPDATE that closes it (spec/40_host_commands.md R64). -/

namespace Sys2Proof.Machine

/-! ## The events of a block (R138) -/

theorem State.afterFold_trace (s : State) (n : Nat) :
    (s.afterFold n).trace
      = s.trace ++ .block s.blockWords :: (List.range n).flatMap (roundEvents s.acc s.blockWords) := rfl

theorem State.compressBlock_trace (s : State) :
    s.compressBlock.trace = s.trace ++ blockEvents s.acc s.blockWords := s.afterFold_trace 80

theorem length_roundEvents (h : Accumulator) (m : Vector Word 16) (n : Nat) :
    ((List.range n).flatMap (roundEvents h m)).length = 2 * n := by
  simp [List.length_flatMap, roundEvents, Nat.mul_comm]

theorem length_blockEvents (h : Accumulator) (m : Vector Word 16) : (blockEvents h m).length = 161 :=
  congrArg (· + 1) (length_roundEvents h m 80)

/-- Settles O46: the 82 steps end in `State.compressBlock`, whose trace gains BLOCK and two events a round. -/
theorem traceOfABlock : Obligations.TraceOfABlock := by
  intro s hinv hp hquiet
  exact ⟨s.compressBlock, run_compressBlock hinv.not_excluded hp hquiet, s.compressBlock_trace,
    length_blockEvents s.acc s.blockWords⟩

/-! ## The UPDATE that closes a block -/

/-- A step of a core that absorbs, when the host offers UPDATE and LEN has not reached its limit (R64). -/
theorem step_update {s : State} {b : Byte} {rest : List HostMove} (hs : s.steady) (hp : s.phase = .absorb)
    (he : s.err = false) (hlen : s.len.toNat + 1 < 2 ^ 61) (hh : s.host = .command (0x1#4 ++ b) :: rest) :
    step s = .next ((s.setHost rest).absorbByte b) := by
  have hq : s.phase.quiescent = true := Phase.quiescent_iff.mpr (.inl hp)
  have heff := Effect.update (s := s.setHost rest) (b := b) hp he hlen
  exact (step_exec hs.not_excluded hq hh (decodeCommand_update b)).trans heff.exec_eq

/-- Settles O56: the UPDATE is PutByte at offset 63, which closes the block, and 82 steps compress it. -/
theorem updateClosesABlock : Obligations.UpdateClosesABlock := by
  intro s b rest hinv hp he hlen hpos hh hquiet
  have hpos' : (s.setHost rest).pos = 63#6 := hpos
  have hstep := step_update hinv.steady hp he (by omega) hh
  have hcompress := run_compressBlock (hinv.step hstep).not_excluded (by simp [hpos]) (by simpa using hquiet)
  have hcount := State.countByte_len_toNat (s := s.setHost rest) (show s.len.toNat + 1 < 2 ^ 61 by omega)
  refine ⟨_, _, hstep, (run_add 82 (run_one hstep)).trans hcompress, ?byte, fun a ha => ?others, ?acc, ?phase, ?pos,
    ?len, State.compressBlock_resp _, State.compressBlock_host _ |>.trans (State.absorbByte_host ..), ?valid⟩
  case byte =>
    rw [State.bufByte_absorbByte, hpos']
    rfl
  case others =>
    rw [State.bufByte_absorbByte, hpos']
    exact if_neg (Nat.ne_of_lt ha)
  case acc =>
    rw [State.compressBlock_acc, State.absorbByte_acc]
    rfl
  case len =>
    rw [State.compressBlock_len, State.absorbByte_len, hcount]
    rfl
  case phase | pos => simp [hpos]
  case valid => simp [State.respValid, hpos, Phase.quiescent]

end Sys2Proof.Machine
end

section
/-! The padder from PAD_ZERO to the closed block (spec/41_padder.md R77, R78, R80): zero bytes to offset 55, then the
eight bytes of the trailer. -/

namespace Sys2Proof.Machine

/-- From `s` to `t` the padder has written `n` bytes from POS on, byte `f a` at address `a`, and nothing else. -/
structure State.Fills (s t : State) (f : Nat → Byte) (n : Nat) : Prop where
  frame : s.padFrame t
  bytes : ∀ a, t.bufByte a = if s.pos.toNat ≤ a ∧ a < s.pos.toNat + n then f a else s.bufByte a

theorem State.Fills.zero {s t : State} (f : Nat → Byte) (hframe : s.padFrame t) (hbuf : s.sameBuffer t) :
    s.Fills t f 0 where
  frame := hframe
  bytes a := by rw [hbuf a, if_neg (by omega)]

/-- One more byte, at the POS the others end at. -/
theorem State.Fills.putByte {s t : State} {f : Nat → Byte} {n : Nat} (h : s.Fills t f n) {b : Byte} (cont ret : Phase)
    (hpos : t.pos.toNat = s.pos.toNat + n) (hb : b = f t.pos.toNat) : s.Fills (t.putByte b cont ret) f (n + 1) where
  frame := h.frame.trans (t.padFrame_putByte b cont ret)
  bytes a := by
    rw [State.bufByte_putByte, h.bytes a]
    by_cases ha : a = t.pos.toNat
    · rw [if_pos ha, if_pos (by omega), hb, ha]
    · rw [if_neg ha]
      exact if_congr (by omega) rfl rfl

theorem State.Fills.host {s t : State} {f : Nat → Byte} {n : Nat} (h : s.Fills t f n) : t.host = s.host := by
  obtain ⟨-, -, -, -, -, -, -, hhost, -⟩ := h.frame
  exact hhost

theorem State.Fills.len {s t : State} {f : Nat → Byte} {n : Nat} (h : s.Fills t f n) : t.len = s.len := by
  obtain ⟨-, -, hlen, -⟩ := h.frame
  exact hlen

section
variable {s : State} (hs : s.steady) (hquiet : quietHost s.host)
include hs hquiet

/-- Zero fill, up to offset 56 (R77). -/
theorem run_zeroFill (hp : s.phase = .padZero) {n : Nat} (hn : s.pos.toNat + n ≤ 56) :
    ∃ t : State, Host.Core.run Sys2Proof.core n s = .next t ∧ t.steady ∧ t.phase = .padZero
      ∧ t.pos.toNat = s.pos.toNat + n ∧ s.Fills t (fun _ => 0x00#8) n := by
  induction n with
  | zero => exact ⟨s, rfl, hs, hp, rfl, .zero _ s.padFrame_refl fun _ => rfl⟩
  | succ n ih =>
    obtain ⟨t, hrun, ht, htp, hpos, hfills⟩ := ih (by omega)
    have hpos56 : t.pos ≠ 56#6 := fun h56 => by
      rw [h56] at hpos
      simp at hpos
      omega
    have heff := Effect.padzByte htp hpos56
    have hstep := heff.step_eq rfl ht.not_excluded (by rw [htp]; rfl) (by rw [hfills.host]; exact hquiet)
    obtain ⟨hnext, -, hphase⟩ := State.putByte_not_last (s := t) 0x00#8 .padZero .padZero (by omega)
    exact ⟨_, (run_add 1 hrun).trans (run_one hstep), heff.steady ht, hphase, by omega,
      hfills.putByte _ _ hpos rfl⟩

/-- The trailer's bytes, from offset 56; the eighth closes the block (R78). -/
theorem run_trailer (hp : s.phase = .padLen) (hpos : s.pos.toNat = 56) {n : Nat} (hn : n ≤ 8) :
    ∃ t : State, Host.Core.run Sys2Proof.core n s = .next t ∧ t.steady ∧ s.Fills t (fun a => byte64 s.bitLen (a - 56)) n
      ∧ (n < 8 → t.phase = .padLen ∧ t.pos.toNat = 56 + n)
      ∧ (n = 8 → t.pos = 0#6 ∧ t.ret = .done ∧ t.phase = .load) := by
  induction n with
  | zero =>
    exact ⟨s, rfl, hs, .zero _ s.padFrame_refl fun _ => rfl, fun _ => ⟨hp, hpos⟩, nofun⟩
  | succ n ih =>
    obtain ⟨t, hrun, ht, hfills, hlast, -⟩ := ih (by omega)
    obtain ⟨htp, htpos⟩ := hlast (by omega)
    have heff := Effect.padl htp (by omega)
    have hstep := heff.step_eq rfl ht.not_excluded (by rw [htp]; rfl) (by rw [hfills.host]; exact hquiet)
    have hbyte : t.trailerByte = byte64 s.bitLen (t.pos.toNat - 56) := by
      have hbits : t.bitLen = s.bitLen := congrArg (· ++ 0#3) hfills.len
      exact congrArg (byte64 · _) hbits
    refine ⟨_, (run_add 1 hrun).trans (run_one hstep), heff.steady ht, hfills.putByte _ _ (by omega) hbyte,
      fun h8 => ?_, fun h8 => State.putByte_last _ _ _ (by omega)⟩
    obtain ⟨hnext, -, hphase⟩ := State.putByte_not_last (s := t) t.trailerByte .padLen .done (by omega)
    exact ⟨hphase, by omega⟩

end

/-- Settles O33: the zero fill to offset 56, PADZ's end of it, and the trailer's eight bytes. -/
theorem padderFillsLastBlock : Obligations.PadderFillsLastBlock := by
  intro s hinv hp hpos hquiet
  obtain ⟨t, hrun, htsteady, htp, htpos, hzeros⟩ :=
    run_zeroFill hinv.steady hquiet hp (n := 56 - s.pos.toNat) (by omega)
  have h56 : t.pos.toNat = 56 := by omega
  have heff := Effect.padzEnd htp (BitVec.eq_of_toNat_eq h56)
  have htquiet : quietHost t.host := by
    rw [hzeros.host]
    exact hquiet
  have hstep := heff.step_eq rfl htsteady.not_excluded (by rw [htp]; rfl) htquiet
  obtain ⟨v, hrun', -, htrailer, -, hlast⟩ := run_trailer (heff.steady htsteady) htquiet rfl h56 (Nat.le_refl 8)
  obtain ⟨hvpos, hvret, hvphase⟩ := hlast rfl
  have hsplit (a : Nat) : v.bufByte a =
      if 56 ≤ a ∧ a < 64 then byte64 t.bitLen (a - 56) else t.bufByte a := by
    have h := htrailer.bytes a
    dsimp only at h
    rwa [h56] at h
  refine ⟨v, ?_, hvphase, hvret, hvpos, fun a ha => ?below, fun a hlo hhi => ?zeros, fun j hj => ?trailer,
    hzeros.frame.trans htrailer.frame⟩
  · rw [run_add 8 ((run_add 1 hrun).trans (run_one hstep)), hrun']
  case below => rw [hsplit, if_neg (by omega), hzeros.bytes, if_neg (by omega)]
  case zeros =>
    rw [hsplit, if_neg (by omega), hzeros.bytes, if_pos (by omega)]
    rfl
  case trailer =>
    rw [hsplit, if_pos (by omega), Nat.add_sub_cancel_left, byte64_toNat _ hj, t.bitLen_toNat, hzeros.len]

end Sys2Proof.Machine
end

section
/-! The bytes written to the buffer while a message is hashed (spec/41_padder.md R80): a step writes the byte the rules
give it, and the bytes still to come, from the message or the padder, lose it. -/

namespace Sys2Proof.Machine

/-! ## The byte of a step (R23, R84) -/

/-- The buffer with the byte a step writes, if it writes one. -/
def Memory.putOption (m : Memory) (a : Nat) : Option Byte → Memory
  | some b => m.put a b
  | none => m

theorem decodeCommand_of_cmdOp_one {w : CmdWord} (h : cmdOp w = 1) :
    decodeCommand w = .ok (.update (cmdImm8 w)) :=
  (decodeCommand_eq_ok_iff w _).mpr (.inr (.inl ⟨rfl, h⟩))

/-- UPDATE's words are those of opcode 1 (R52). -/
theorem cmdOp_of_decodeCommand_update {w : CmdWord} {b : Byte} (h : decodeCommand w = .ok (.update b)) :
    cmdOp w = 1 ∧ cmdImm8 w = b := by
  have hfields := (decodeCommand_eq_ok_iff w (.update b)).mp h
  simp only [reduceCtorEq, false_and, or_false, false_or, Instr.update.injEq] at hfields
  exact ⟨hfields.2, hfields.1.symm⟩

/-- A quiescent core writes no byte when the word offered is no UPDATE that is admitted. -/
theorem State.byteToWrite_none {s : State} {w : CmdWord} {rest : List HostMove} (hq : s.phase.quiescent = true)
    (hh : s.host = .command w :: rest) (h : cmdOp w = 1 → s.admission (.update (cmdImm8 w)) ≠ none) :
    s.byteToWrite = none := by
  rcases Phase.quiescent_iff.mp hq with hp | hp
  · simp only [State.byteToWrite, hp, hh]
    exact if_neg fun hw => h hw.1 hw.2
  · simp only [State.byteToWrite, hp]

/-- A quiescent core writes the byte of an UPDATE that is admitted (R64). -/
theorem State.byteToWrite_update {s : State} {w : CmdWord} {rest : List HostMove} {b : Byte} (hp : s.phase = .absorb)
    (hh : s.host = .command w :: rest) (hw : decodeCommand w = .ok (.update b))
    (ha : s.admission (.update b) = none) : s.byteToWrite = some b := by
  obtain ⟨hop, himm⟩ := cmdOp_of_decodeCommand_update hw
  simp [State.byteToWrite, hp, hh, hop, himm, ha]

/-- An UPDATE is admitted in ABSORB with no error standing and LEN below its limit (R124). -/
theorem State.admission_update_none {s : State} (b : Byte) (hp : s.phase = .absorb) (he : s.err = false)
    (hl : s.len.toNat + 1 < 2 ^ 61) : s.admission (.update b) = none := by
  rw [State.admission_update b (Phase.quiescent_iff.mpr (.inl hp)), if_neg (by simp [he, hp]), if_neg (by omega)]

/-- The buffer after a command transferred. -/
theorem Effect.buf_command {s t : State} {w : CmdWord} {rest : List HostMove} {i : Instr}
    (h : Effect (s.setHost rest) i t) (hq : s.phase.quiescent = true) (hh : s.host = .command w :: rest)
    (hw : decodeCommand w = .ok i) : t.buf = Memory.putOption s.buf s.pos.toNat s.byteToWrite := by
  have update_of_opcode (hop : cmdOp w = 1) : i = .update (cmdImm8 w) :=
    Except.ok.inj (hw.symm.trans (decodeCommand_of_cmdOp_one hop))
  have hnone (hne : ∀ b, i ≠ .update b) : s.byteToWrite = none :=
    State.byteToWrite_none hq hh fun hop => absurd (update_of_opcode hop) (hne _)
  have hquiet {p : Phase} (hp : s.phase = p) (hb : p.quiescent = false) : False := by simp [hp, hb] at hq
  cases h with
  | raises _ _ ha =>
    have hraises : s.byteToWrite = none := State.byteToWrite_none hq hh fun hop hadm => by
      rw [← update_of_opcode hop] at hadm
      exact absurd (ha.symm.trans hadm) (by simp)
    rw [hraises]
    exact State.raise_buf ..
  | init | final | rddig | rdstat =>
    rw [hnone nofun]
    rfl
  | update hp he hl =>
    rw [State.byteToWrite_update (s := s) hp hh hw (State.admission_update_none _ hp he hl)]
    exact State.putByte_buf ..
  | padt hp | padzEnd hp | padzByte hp | padl hp | ldblk hp | round hp | fold hp => exact (hquiet hp rfl).elim

/-- The buffer after a micro-operation, whatever the host offers. -/
theorem Effect.buf_micro {s t : State} {moves : List HostMove} {i : Instr} (h : Effect (s.setHost moves) i t)
    (hi : i.isCommand = false) : t.buf = Memory.putOption s.buf s.pos.toNat s.byteToWrite := by
  have hbyte {p : Phase} (hp : s.phase = p) : s.byteToWrite = ({ s with phase := p } : State).byteToWrite := by
    rw [← hp]
  cases h with
  | raises _ hc => rw [hi] at hc; cases hc
  | init | update | final | rddig | rdstat => cases hi
  | padt hp =>
    rw [hbyte hp]
    exact State.putByte_buf ..
  | padzEnd hp hpos =>
    have hpos : s.pos = 56#6 := hpos
    rw [hbyte hp]
    simp [State.byteToWrite, hpos, Memory.putOption]
  | padzByte hp hpos =>
    have hpos : s.pos ≠ 56#6 := hpos
    rw [hbyte hp]
    simp [State.byteToWrite, hpos, Memory.putOption]
  | padl hp =>
    rw [hbyte hp]
    exact State.putByte_buf ..
  | ldblk hp | fold hp =>
    rw [hbyte hp]
    rfl
  | round hp =>
    rw [hbyte hp, State.roundBy_eq]
    rfl

/-- A step that is no reset changes the buffer by the byte the rules give it (R84). -/
theorem step_buf {s t : State} (hno : ∀ rest, s.host ≠ .reset :: rest) (h : step s = .next t) :
    t.buf = Memory.putOption s.buf s.pos.toNat s.byteToWrite := by
  cases StepEffect.of_step h with
  | reset hh => exact absurd hh (hno _)
  | illegal he hq hh hw =>
    have hnone : s.byteToWrite = none := State.byteToWrite_none hq hh fun hop => by
      rw [decodeCommand_of_cmdOp_one hop] at hw
      cases hw
    rw [hnone]
    exact State.raise_buf ..
  | command he hq hh hw heff => exact heff.buf_command hq hh hw
  | wait he hq hh | hold he hq hh =>
    have hnone : s.byteToWrite = none := by
      rcases Phase.quiescent_iff.mp hq with hp | hp <;> simp [State.byteToWrite, hp, hh]
    rw [hnone]
    rfl
  | micro he hq hh hi heff => exact heff.buf_micro hi

/-- The byte a step writes is read back at the old POS. -/
theorem State.bufByte_of_putOption {s t : State} {b : Byte} {a : Nat}
    (h : t.buf = Memory.putOption s.buf a (some b)) : t.bufByte a = b := by
  rw [State.bufByte, h, Memory.putOption, Memory.get?_put_same, Option.getD_some]

/-! ## The bytes of steps in a row -/

/-- A step that is no reset adds its byte. -/
theorem bytesWritten_succ {s t : State} (n : Nat) (hno : ∀ rest, s.host ≠ .reset :: rest) (h : step s = .next t) :
    bytesWritten (n + 1) s = s.byteToWrite.toList ++ bytesWritten n t := by
  have hbuf := step_buf hno h
  rw [bytesWritten, h]
  dsimp only
  split
  next rest hh => exact absurd hh (hno rest)
  next =>
    cases hb : s.byteToWrite with
    | none => rfl
    | some b =>
      rw [hb] at hbuf
      rw [State.bufByte_of_putOption hbuf]
      rfl

/-- A reset adds none. -/
theorem bytesWritten_reset {s : State} {rest : List HostMove} (n : Nat) (hh : s.host = .reset :: rest) :
    bytesWritten (n + 1) s = bytesWritten n (s.setHost rest).resetEvent := by
  rw [bytesWritten, step_reset hh]
  simp [hh]

theorem quietHost.no_reset {moves : List HostMove} (h : quietHost moves) : ∀ rest, moves ≠ .reset :: rest := by
  rcases h with rfl | ⟨w, rest, rfl⟩ <;> simp

/-! ## The padder's bytes (R74, R80) -/

/-- Zero bytes from offset `pos` to the next offset 55, then the trailer. -/
def fillBytes (pos : BitVec 6) (l : Nat) : List Byte := List.replicate (56#6 - pos).toNat 0x00#8 ++ trailer l

/-- The bytes the padder has still to write. -/
def State.bytesLeft (s : State) : List Byte :=
  match s.phase with
  | .absorb => []
  | .padTerm => 0x80#8 :: fillBytes (s.pos + 1#6) s.len.toNat
  | .padZero => fillBytes s.pos s.len.toNat
  | .padLen => (trailer s.len.toNat).drop (s.pos.toNat - 56)
  | .load => if s.ret = .padZero then fillBytes s.pos s.len.toNat else []
  | .round => if s.ret = .padZero then fillBytes s.pos s.len.toNat else []
  | .fold => if s.ret = .padZero then fillBytes s.pos s.len.toNat else []
  | .done => []

theorem fillBytes_end (l : Nat) : fillBytes 56#6 l = trailer l := rfl

theorem fillBytes_succ {pos : BitVec 6} (l : Nat) (h : pos ≠ 56#6) :
    fillBytes pos l = 0x00#8 :: fillBytes (pos + 1#6) l := by
  have hcount : (56#6 - pos).toNat = (56#6 - (pos + 1#6)).toNat + 1 := by bv_omega
  rw [fillBytes, hcount, List.replicate_succ]
  rfl

/-- After FINAL the padder has PADBYTES(L) to write. -/
theorem padBytes_eq_fillBytes {l : Nat} {pos : BitVec 6} (h : pos.toNat = l % 64) :
    padBytes l = 0x80#8 :: fillBytes (pos + 1#6) l := by
  have hle := zeroFill_le l
  have hmod := zeroFill_mod l
  have hcount : (56#6 - (pos + 1#6)).toNat = zeroFill l := by bv_omega
  rw [fillBytes, hcount]
  rfl

/-- The trailer from byte j on (R75, R78). -/
theorem trailer_drop {l j : Nat} (hj : j < 8) :
    (trailer l).drop j = byte64 (BitVec.ofNat 64 (l * 8)) j :: (trailer l).drop (j + 1) := by
  have hlen : j < (trailer l).length := by simpa [trailer] using hj
  rw [List.drop_eq_getElem_cons hlen]
  simp [trailer]

/-- PutByte with RET = PAD_ZERO leaves the fill from the next offset. -/
theorem State.bytesLeft_putByte_padZero (s : State) (b : Byte) :
    (s.putByte b .padZero .padZero).bytesLeft = fillBytes (s.pos + 1#6) s.len.toNat := by
  by_cases h63 : s.pos = 63#6 <;> simp [State.bytesLeft, h63]

theorem trailer_drop_eight (l : Nat) : (trailer l).drop 8 = [] := List.drop_eq_nil_of_le (by simp [trailer])

/-- PADL's PutByte leaves the trailer from its next byte. -/
theorem State.bytesLeft_putByte_padLen {s : State} (b : Byte) (hpos : 56 ≤ s.pos.toNat) :
    (s.putByte b .padLen .done).bytesLeft = (trailer s.len.toNat).drop (s.pos.toNat - 56 + 1) := by
  by_cases h63 : s.pos = 63#6
  · have h7 : s.pos.toNat - 56 + 1 = 8 := by rw [h63]; rfl
    rw [h7, trailer_drop_eight]
    simp [State.bytesLeft, h63]
  · have hsucc : (s.pos + 1#6).toNat - 56 = s.pos.toNat - 56 + 1 := by bv_omega
    simp only [State.bytesLeft, State.putByte_phase, if_neg h63, State.putByte_pos, State.putByte_len, hsucc]

/-- A micro-operation of the padder, or of a block it closed, takes its byte off those left. -/
theorem Effect.bytesLeft {s t : State} {i : Instr} (h : Effect s i t) (hi : i.isCommand = false) (hpad : s.padding) :
    s.bytesLeft = s.byteToWrite.toList ++ t.bytesLeft := by
  cases h with
  | raises _ hc => rw [hi] at hc; cases hc
  | init | update | final | rddig | rdstat => cases hi
  | padt hp =>
    rw [State.bytesLeft_putByte_padZero]
    simp [State.bytesLeft, State.byteToWrite, hp]
  | padzEnd hp hpos => simp [State.bytesLeft, State.byteToWrite, hp, hpos, fillBytes_end]
  | padzByte hp hpos =>
    rw [State.bytesLeft_putByte_padZero]
    simp [State.bytesLeft, State.byteToWrite, hp, hpos, fillBytes_succ _ hpos]
  | padl hp hpos =>
    have hlt := s.pos.isLt
    rw [State.bytesLeft_putByte_padLen _ hpos]
    simp only [State.bytesLeft, State.byteToWrite, hp, State.trailerByte, State.bitLen_eq]
    exact trailer_drop (by omega)
  | ldblk hp =>
    simp only [State.bytesLeft, State.byteToWrite, hp]
    rfl
  | @round k hp =>
    by_cases h79 : s.t = 79#7 <;> simp [State.bytesLeft, State.byteToWrite, s.roundBy_phase k hp, hp, h79]
  | fold hp hr =>
    have hne : s.ret ≠ .absorb := by simpa [State.padding, hp] using hpad
    rcases Phase.isReturn_iff.mp hr with hr | hr | hr
    · exact absurd hr hne
    · simp [State.bytesLeft, State.byteToWrite, hp, hr]
    · simp [State.bytesLeft, State.byteToWrite, hp, hr]

theorem State.bytesLeft_of_quiescent {s : State} (hq : s.phase.quiescent = true) : s.bytesLeft = [] := by
  rcases Phase.quiescent_iff.mp hq with hp | hp <;> simp [State.bytesLeft, hp]

/-- The padder's run writes the bytes it has left. -/
theorem bytesWritten_opsLeft {s : State} (hs : s.steady) (hpad : s.padding) (hh : quietHost s.host) :
    bytesWritten s.opsLeft s = s.bytesLeft := by
  induction hn : s.opsLeft generalizing s with
  | zero =>
    have hq : s.phase.quiescent = true := by
      by_contra hq
      have := State.opsLeft_pos hs (Bool.not_eq_true _ ▸ hq)
      omega
    rw [State.bytesLeft_of_quiescent hq]
    rfl
  | succ n ih =>
    have hq : s.phase.quiescent = false := by
      by_contra hq
      have := State.opsLeft_of_quiescent (Bool.not_eq_false _ ▸ hq)
      omega
    obtain ⟨i, t, hi, heff, -, hstep⟩ := exists_busy_step hs hq hh
    have hone := heff.opsLeft hi hs
    have hth : quietHost t.host := by
      rw [(heff.settles hi).host]
      exact hh
    rw [bytesWritten_succ n hh.no_reset hstep, heff.bytesLeft hi hpad,
      ih (heff.steady hs) (heff.padding hi hpad) hth (by omega)]

/-! ## The message's bytes -/

theorem bytesWritten_add {s t : State} {m : Nat} (n : Nat) (h : Host.Core.run Sys2Proof.core m s = .next t) :
    bytesWritten (m + n) s = bytesWritten m s ++ bytesWritten n t := by
  induction m generalizing s with
  | zero =>
    injection h with h
    rw [h, Nat.zero_add]
    rfl
  | succ m ih =>
    rw [Nat.succ_add, bytesWritten, bytesWritten]
    simp only [Host.Core.run] at h
    split at h
    next u hu =>
      rw [show step s = .next u from hu]
      dsimp only
      split <;> rw [ih h]
      rw [List.append_assoc]
    next => cases h
    next => cases h

/-- A step that writes no byte. -/
theorem bytesWritten_one_none {s t : State} (hno : ∀ rest, s.host ≠ .reset :: rest) (h : step s = .next t)
    (hnone : s.byteToWrite = none) : bytesWritten 1 s = [] := by
  rw [bytesWritten_succ 0 hno h, hnone]
  rfl

/-- While a block is compressed no byte is written. -/
theorem State.byteToWrite_of_compressing {s : State} (h : s.phase.compressing = true) : s.byteToWrite = none := by
  cases hp : s.phase with
  | load | round | fold => simp [State.byteToWrite, hp]
  | absorb | padTerm | padZero | padLen | done => rw [hp] at h; cases h

theorem State.afterRounds_compressing (s : State) (n : Nat) : (s.afterRounds n).phase.compressing = true := by
  simp only [State.afterRounds]
  split <;> rfl

section
variable {s : State} (he : s.excluded = false) (hp : s.phase = .load) (hh : quietHost s.host)
include he hp hh

theorem bytesWritten_afterRounds {n : Nat} (hn : n ≤ 80) : bytesWritten (1 + n) s = [] := by
  induction n with
  | zero =>
    exact bytesWritten_one_none hh.no_reset (step_load he hp hh) (State.byteToWrite_of_compressing (by rw [hp]; rfl))
  | succ n ih =>
    have hnone := State.byteToWrite_of_compressing (s.afterRounds_compressing n)
    have hstep := step_afterRounds he hp hh (n := n) (by omega)
    rw [← Nat.add_assoc, bytesWritten_add 1 (run_afterRounds he hp hh (by omega)), ih (by omega), List.nil_append]
    exact bytesWritten_one_none (s := s.afterRounds n) hh.no_reset hstep hnone

theorem bytesWritten_afterFold {n : Nat} (hn : 80 ≤ n) : bytesWritten 1 (s.afterRounds n) = [] :=
  bytesWritten_one_none (s := s.afterRounds n) hh.no_reset (step_afterFold he hp hh hn)
    (State.byteToWrite_of_compressing (s.afterRounds_compressing n))

/-- The 82 steps of a block write none. -/
theorem bytesWritten_compressBlock : bytesWritten 82 s = [] := by
  rw [show 82 = 1 + 80 + 1 from rfl, bytesWritten_add 1 (run_afterRounds he hp hh (Nat.le_refl 80)),
    bytesWritten_afterRounds he hp hh (Nat.le_refl 80), List.nil_append]
  exact bytesWritten_afterFold he hp hh (Nat.le_refl 80)

end

/-- The core absorbs, with no error standing, `l` message bytes taken in, and the moves `moves` of the host to come. -/
structure State.Absorbs (s : State) (l : Nat) (moves : List HostMove) : Prop where
  steady : s.steady
  phase : s.phase = .absorb
  err : s.err = false
  len : s.len.toNat = l
  host : s.host = moves

section
variable {s : State} {l : Nat} {rest : List HostMove}

theorem State.Absorbs.quiescent {moves : List HostMove} (h : s.Absorbs l moves) : s.phase.quiescent = true :=
  Phase.quiescent_iff.mpr (.inl h.phase)

theorem State.Absorbs.no_reset {w : CmdWord} (h : s.Absorbs l (.command w :: rest)) :
    ∀ rest, s.host ≠ .reset :: rest := by
  simp [h.host]

theorem State.Absorbs.pos {moves : List HostMove} (h : s.Absorbs l moves) : s.pos.toNat = l % 64 :=
  h.len ▸ (h.steady.counts h.phase).2

/-- FINAL writes no byte, then the padder writes PADBYTES(L). -/
theorem State.Absorbs.bytesWritten_final (h : s.Absorbs l (.command 0x200#12 :: rest)) (hquiet : quietHost rest) :
    bytesWritten (finalMicroOps l + 1) s = padBytes l := by
  have hstep := step_final h.steady h.phase h.err h.host
  have hleft : (s.setHost rest).startPadding.opsLeft = finalMicroOps s.len.toNat :=
    State.opsLeft_startPadding (s := s.setHost rest) h.steady h.phase
  have hnone : s.byteToWrite = none := State.byteToWrite_none h.quiescent h.host fun hop => absurd hop (by decide)
  rw [bytesWritten_succ _ h.no_reset hstep, hnone, ← h.len, ← hleft,
    bytesWritten_opsLeft (h.steady.step hstep) trivial hquiet, padBytes_eq_fillBytes (h.len ▸ h.pos)]
  rfl

/-- RDSTAT writes no byte. -/
theorem State.Absorbs.rdstat (h : s.Absorbs l (.command 0x400#12 :: rest)) :
    ∃ t : State, t.Absorbs l rest ∧ ∀ n, bytesWritten (n + 1) s = bytesWritten n t := by
  have hexec := exec_rdstat (s := s.setHost rest) h.quiescent
  have hstep := (step_exec h.steady.not_excluded h.quiescent h.host decodeCommand_rdstat).trans hexec
  have hnone : s.byteToWrite = none := State.byteToWrite_none h.quiescent h.host fun hop => absurd hop (by decide)
  refine ⟨_, ⟨h.steady.step hstep, h.phase, h.err, h.len, rfl⟩, fun n => ?_⟩
  rw [bytesWritten_succ _ h.no_reset hstep, hnone]
  rfl

/-- UPDATE writes its byte, and 82 steps more write none when the block is complete. -/
theorem State.Absorbs.update {b : Byte} (h : s.Absorbs l (.command (0x1#4 ++ b) :: rest)) (hl : l + 1 < 2 ^ 61)
    (hquiet : quietHost rest) :
    ∃ t : State, t.Absorbs (l + 1) rest
      ∧ ∀ n, bytesWritten (82 * ((l + 1) / 64 - l / 64) + n + 1) s = b :: bytesWritten n t := by
  have hlen : s.len.toNat + 1 < 2 ^ 61 := by rwa [h.len]
  have hstep := step_update h.steady h.phase h.err hlen h.host
  have hsteady := h.steady.step hstep
  have hbyte : s.byteToWrite = some b := State.byteToWrite_update h.phase h.host (decodeCommand_update b)
    (State.admission_update_none b h.phase h.err hlen)
  have hcount : ((s.setHost rest).absorbByte b).len.toNat = l + 1 := by
    rw [State.absorbByte_len, State.countByte_len_toNat (s := s.setHost rest) hlen, ← h.len]
    rfl
  have herr : ((s.setHost rest).absorbByte b).err = false := (State.putByte_err ..).trans h.err
  have hpos := h.pos
  by_cases h63 : s.pos = 63#6
  · have hblock : (l + 1) / 64 - l / 64 = 1 := by
      rw [h63] at hpos
      simp at hpos
      omega
    have hload : ((s.setHost rest).absorbByte b).phase = .load := by simp [h63]
    have hhost : quietHost ((s.setHost rest).absorbByte b).host := by simpa using hquiet
    have hrun := run_compressBlock hsteady.not_excluded hload hhost
    refine ⟨_, ⟨hsteady.run hrun, by simp [h63], by simpa using herr, by rw [State.compressBlock_len, hcount], by simp⟩,
      fun n => ?_⟩
    rw [bytesWritten_succ _ h.no_reset hstep, hbyte, hblock, bytesWritten_add n hrun,
      bytesWritten_compressBlock hsteady.not_excluded hload hhost]
    rfl
  · have hblock : (l + 1) / 64 - l / 64 = 0 := by
      have : s.pos.toNat ≠ 63 := fun h => h63 (BitVec.eq_of_toNat_eq h)
      omega
    refine ⟨_, ⟨hsteady, by simp [h63], herr, hcount, by simp⟩, fun n => ?_⟩
    rw [bytesWritten_succ _ h.no_reset hstep, hbyte, hblock, Nat.mul_zero, Nat.zero_add]
    rfl

/-- The commands of a message write its bytes, then FINAL's padder PADBYTES(L). -/
theorem State.Absorbs.bytesWritten_message {moves : List HostMove} (hmoves : ∀ move ∈ moves, sendsMessage move)
    (hlen : l + (messageOf moves).length < 2 ^ 61) (hquiet : quietHost rest)
    (h : s.Absorbs l (moves ++ .command 0x200#12 :: rest)) :
    bytesWritten (moves.length + 82 * ((l + (messageOf moves).length) / 64 - l / 64)
        + (finalMicroOps (l + (messageOf moves).length) + 1)) s
      = messageOf moves ++ padBytes (l + (messageOf moves).length) := by
  induction moves generalizing s l with
  | nil => simpa [messageOf] using h.bytesWritten_final hquiet
  | cons move moves ih =>
    have hmsg : messageOf (move :: moves) = messageOf [move] ++ messageOf moves := messageOf_append [move] moves
    have hmoves' := fun m hm => hmoves m (List.mem_cons_of_mem _ hm)
    rcases hmoves move List.mem_cons_self with rfl | ⟨b, rfl⟩
    · rw [messageOf_rdstat, List.nil_append] at hmsg
      rw [hmsg] at hlen ⊢
      obtain ⟨t, ht, hbytes⟩ := h.rdstat
      rw [← ih hmoves' hlen ht, ← hbytes, List.length_cons]
      congr 1
      omega
    · rw [messageOf_update, List.singleton_append] at hmsg
      rw [hmsg] at hlen ⊢
      simp only [List.length_cons] at hlen ⊢
      have hrest : quietHost (moves ++ .command 0x200#12 :: rest) := by
        cases moves with
        | nil => exact quietHost_command _ _
        | cons m ms => exact quietHost_of_sendsMessage (hmoves' m List.mem_cons_self) _
      obtain ⟨t, ht, hbytes⟩ := h.update (by omega) hrest
      have hih := ih hmoves' (by omega) ht
      rw [show l + ((messageOf moves).length + 1) = l + 1 + (messageOf moves).length by omega, List.cons_append, ← hih,
        ← hbytes]
      congr 1
      omega

end

/-- INIT and reset start the core absorbing, and write no byte. -/
theorem exists_absorbs {s : State} {start : HostMove} {moves : List HostMove}
    (hstart : start = .reset ∨ (start = .command 0x000#12 ∧ s.phase.quiescent = true ∧ s.excluded = false))
    (hh : s.host = start :: moves) :
    ∃ t : State, t.Absorbs 0 moves ∧ ∀ n, bytesWritten (n + 1) s = bytesWritten n t := by
  have hbegin := (s.setHost moves).steady_initialise
  rcases hstart with rfl | ⟨rfl, hq, he⟩
  · exact ⟨(s.setHost moves).resetEvent, ⟨hbegin, rfl, rfl, rfl, rfl⟩, fun n => bytesWritten_reset n hh⟩
  · have hexec := exec_init (s := s.setHost moves) hq
    have hstep := (step_exec he hq hh decodeCommand_init).trans hexec
    have hnone : s.byteToWrite = none := State.byteToWrite_none hq hh fun hop => absurd hop (by decide)
    refine ⟨(s.setHost moves).initialise.respond (respOk 0x00#8), ⟨hbegin, rfl, rfl, rfl, rfl⟩, fun n => ?_⟩
    rw [bytesWritten_succ _ (by simp [hh]) hstep, hnone]
    rfl

/-- Settles O59: each step's change of the buffer is its byte, and the bytes are the message's, one an UPDATE, then
those the padder has left after FINAL. -/
theorem paddedMessageIsWritten : Obligations.PaddedMessageIsWritten := by
  constructor
  · intro s t hno h
    have hbuf := step_buf hno h
    refine ⟨fun b hb => ?_, fun hb => ?_⟩ <;> rw [hb] at hbuf
    · exact ⟨hbuf, State.bufByte_of_putOption hbuf⟩
    · exact hbuf
  · intro s start moves rest hstart hmoves hlen hquiet hh
    obtain ⟨t, ht, hbytes⟩ := exists_absorbs hstart hh
    have hmessage := ht.bytesWritten_message hmoves (by omega) hquiet
    rw [Nat.zero_add] at hmessage
    rw [padMessage, ← hmessage, ← hbytes]
    congr 1
    unfold finalMicroOps blockCount
    split <;> omega

end Sys2Proof.Machine
end

section
/-! The trace stream (spec/60_exceptions.md R137): every step appends to it, and does the same with any other in its
place. -/

namespace Sys2Proof.Machine

/-- The state with another trace in its place. -/
def State.withTrace (s : State) (other : List Event) : State := { s with trace := other }

theorem State.raise_withTrace (s : State) (other : List Event) (c : Cause) :
    (s.withTrace other).raise c = (s.raise c).withTrace other := by
  unfold State.raise
  rw [apply_ite (State.withTrace · other)]
  rfl

theorem State.putByte_withTrace (s : State) (other : List Event) (b : Byte) (cont ret : Phase) :
    (s.withTrace other).putByte b cont ret = (s.putByte b cont ret).withTrace other := by
  unfold State.putByte
  rw [apply_ite (State.withTrace · other)]
  rfl

theorem State.absorbByte_withTrace (s : State) (other : List Event) (b : Byte) :
    (s.withTrace other).absorbByte b = (s.absorbByte b).withTrace other :=
  congrArg (State.respond · (respOk 0x00#8)) (s.countByte.putByte_withTrace other b .absorb .absorb)

/-- From `s` to `t` the trace gains some events, and an instruction `i` adds the same to any other trace. -/
def Effect.Appends (s : State) (i : Instr) (t : State) : Prop :=
  ∃ events, t.trace = s.trace ++ events ∧ ∀ other, Effect (s.withTrace other) i (t.withTrace (other ++ events))

/-- An instruction that emits nothing. -/
theorem Effect.Appends.nothing {s t : State} {i : Instr} (htrace : t.trace = s.trace)
    (h : ∀ other, Effect (s.withTrace other) i (t.withTrace other)) : Effect.Appends s i t :=
  ⟨[], by rw [htrace, List.append_nil], fun other => by
    rw [List.append_nil]
    exact h other⟩

/-- Every instruction that completes appends to the trace and reads none of it. -/
theorem Effect.appends {s t : State} {i : Instr} (h : Effect s i t) : Effect.Appends s i t := by
  cases h with
  | raises hq hi ha =>
    exact .nothing (s.raise_trace _) fun other => s.raise_withTrace other _ ▸ .raises (s := s.withTrace other) hq hi ha
  | init hq => exact .nothing rfl fun other => .init (s := s.withTrace other) hq
  | update hp he hl =>
    exact .nothing (s.absorbByte_trace _) fun other =>
      s.absorbByte_withTrace other _ ▸ .update (s := s.withTrace other) hp he hl
  | final hp he => exact .nothing rfl fun other => .final (s := s.withTrace other) hp he
  | rddig hp he hb => exact .nothing rfl fun other => .rddig (s := s.withTrace other) hp he hb
  | rdstat hq => exact .nothing rfl fun other => .rdstat (s := s.withTrace other) hq
  | padt hp =>
    exact .nothing (s.putByte_trace ..) fun other => s.putByte_withTrace other .. ▸ .padt (s := s.withTrace other) hp
  | padzEnd hp hpos => exact .nothing rfl fun other => .padzEnd (s := s.withTrace other) hp hpos
  | padzByte hp hpos =>
    exact .nothing (s.putByte_trace ..) fun other =>
      s.putByte_withTrace other .. ▸ .padzByte (s := s.withTrace other) hp hpos
  | padl hp hpos =>
    exact .nothing (s.putByte_trace ..) fun other =>
      s.putByte_withTrace other .. ▸ .padl (s := s.withTrace other) hp hpos
  | ldblk hp => exact ⟨_, rfl, fun other => .ldblk (s := s.withTrace other) hp⟩
  | @round k hp hs =>
    refine ⟨_, by rw [State.roundBy_eq], fun other => ?_⟩
    have h := Effect.round (s := s.withTrace other) hp hs
    rw [State.roundBy_eq] at h ⊢
    exact h
  | fold hp hr => exact .nothing rfl fun other => .fold (s := s.withTrace other) hp hr

/-- Settles O51: each instruction appends the same events to any trace, and no other step emits. -/
theorem traceIsAppendOnlyAndUnread : Obligations.TraceIsAppendOnlyAndUnread := by
  intro s t other h
  have hnothing (htrace : t.trace = s.trace) (h : StepEffect (s.withTrace other) (t.withTrace other)) :
      ∃ events, t.trace = s.trace ++ events ∧ step (s.withTrace other) = .next (t.withTrace (other ++ events)) :=
    ⟨[], by rw [htrace, List.append_nil], by rw [List.append_nil, h.step_eq]⟩
  cases StepEffect.of_step h with
  | reset hh => exact hnothing rfl (.reset (s := s.withTrace other) hh)
  | @illegal w rest e he hq hh hw =>
    refine hnothing (State.raise_trace ..) ?_
    rw [← State.raise_withTrace]
    exact .illegal (s := s.withTrace other) he hq hh hw
  | @command w rest i _ he hq hh hw heff =>
    obtain ⟨events, htrace, hother⟩ := heff.appends
    exact ⟨events, htrace, (StepEffect.command (s := s.withTrace other) he hq hh hw (hother other)).step_eq⟩
  | wait he hq hh => exact hnothing rfl (.wait (s := s.withTrace other) he hq hh)
  | hold he hq hh => exact hnothing rfl (.hold (s := s.withTrace other) he hq hh)
  | micro he hq hh hi heff =>
    obtain ⟨events, htrace, hother⟩ := heff.appends
    exact ⟨events, htrace, (StepEffect.micro (s := s.withTrace other) he hq hh hi (hother other)).step_eq⟩

end Sys2Proof.Machine
end

section
/-! The scratch storage (spec/70_reset_and_hazards.md R143): a step with other scratch, the same where a rule reads it
before writing it, is the same step. -/

namespace Sys2Proof.Machine

/-- The scratch storage of R143, with the index of its free values. -/
structure Scratch where
  work : WorkingState
  sr : Vector Word 16
  buf : Memory
  resets : Nat

/-- The state with other scratch in its place. -/
def State.withScratch (s : State) (x : Scratch) : State :=
  { s with work := x.work, sr := x.sr, buf := x.buf, resets := x.resets }

/-- The other scratch is the state's own where a rule still reads it before writing it. -/
def State.readsSame (s : State) (x : Scratch) : Prop :=
  (∀ a, a < s.visibleBytes → (s.withScratch x).bufByte a = s.bufByte a)
  ∧ (s.phase = .round → x.sr = s.sr)
  ∧ (s.phase = .round ∨ s.phase = .fold → x.work = s.work)

/-- Two states that cannot be told apart are one with two scratches. -/
theorem State.sameButScratch_iff {s s' : State} :
    s.sameButScratch s' ↔ ∃ x, s' = s.withScratch x ∧ s.readsSame x := by
  constructor
  · rintro ⟨hacc, ⟨hlen, hpos⟩, ⟨hphase, ht, hret⟩, ⟨herr, hecode⟩, hresp, htrace, hhost, hbytes, hsr, hwork⟩
    obtain ⟨⟨acc, work, sr, buf, len, pos, phase, t, ret, err, ecode⟩, resp, trace, host, resets⟩ := s'
    subst hacc hlen hpos hphase ht hret herr hecode hresp htrace hhost
    exact ⟨⟨work, sr, buf, resets⟩, rfl, hbytes, hsr, hwork⟩
  · rintro ⟨x, rfl, hbytes, hsr, hwork⟩
    exact ⟨rfl, ⟨rfl, rfl⟩, ⟨rfl, rfl, rfl⟩, ⟨rfl, rfl⟩, rfl, rfl, rfl, hbytes, hsr, hwork⟩

/-- The phases in which what is read of the buffer is the bytes below POS. -/
def Phase.byteWise (p : Phase) : Bool := !p.compressing

section
variable (s : State) (x : Scratch)

theorem State.raise_withScratch (c : Cause) : (s.withScratch x).raise c = (s.raise c).withScratch x := by
  unfold State.raise
  rw [apply_ite (State.withScratch · x)]
  rfl

theorem State.putByte_withScratch (b : Byte) (cont ret : Phase) :
    (s.withScratch x).putByte b cont ret
      = (s.putByte b cont ret).withScratch { x with buf := x.buf.put s.pos.toNat b } := by
  unfold State.putByte
  rw [apply_ite (State.withScratch · { x with buf := x.buf.put s.pos.toNat b })]
  rfl

theorem State.absorbByte_withScratch (b : Byte) :
    (s.withScratch x).absorbByte b = (s.absorbByte b).withScratch { x with buf := x.buf.put s.pos.toNat b } :=
  congrArg (State.respond · (respOk 0x00#8)) (s.countByte.putByte_withScratch x b .absorb .absorb)

end

section
variable {s t : State} {x : Scratch}

theorem State.visibleBytes_of_byteWise (h : s.phase.byteWise = true) : s.visibleBytes = s.pos.toNat := by
  cases hp : s.phase with
  | absorb | padTerm | padZero | padLen | done => simp [State.visibleBytes, hp]
  | load | round | fold => rw [hp] at h; cases h

theorem State.readsSame_iff_of_byteWise (h : s.phase.byteWise = true) :
    s.readsSame x ↔ ∀ a, a < s.pos.toNat → (s.withScratch x).bufByte a = s.bufByte a := by
  rw [State.readsSame, State.visibleBytes_of_byteWise h]
  refine ⟨And.left, fun hbytes => ⟨hbytes, fun hp => ?_, fun hp => ?_⟩⟩
  · rw [hp] at h; cases h
  · rcases hp with hp | hp <;> rw [hp] at h <;> cases h

/-- Nothing of the scratch is read with POS = 0 in these phases. -/
theorem State.readsSame_of_pos_zero (h : s.phase.byteWise = true) (hpos : s.pos = 0#6) : s.readsSame x := by
  rw [State.readsSame_iff_of_byteWise h, hpos]
  exact fun a ha => absurd ha (Nat.not_lt_zero a)

theorem Phase.byteWise_of_isReturn {p : Phase} (h : p.isReturn = true) : p.byteWise = true := by
  simp [Phase.byteWise, Phase.not_compressing_of_isReturn h]

theorem Phase.byteWise_of_quiescent {p : Phase} (h : p.quiescent = true) : p.byteWise = true := by
  simp [Phase.byteWise, Phase.not_compressing_of_quiescent h]

/-- PutByte makes the byte at POS readable, and writes it (R84). -/
theorem State.readsSame.putByte (hp : s.phase.byteWise = true) (h : s.readsSame x) (b : Byte) {cont : Phase}
    (ret : Phase) (hcont : cont.byteWise = true) :
    (s.putByte b cont ret).readsSame { x with buf := x.buf.put s.pos.toNat b } := by
  have hbelow := (State.readsSame_iff_of_byteWise hp).mp h
  have hbytes (a : Nat) (ha : a < s.pos.toNat + 1) :
      ((s.putByte b cont ret).withScratch { x with buf := x.buf.put s.pos.toNat b }).bufByte a
        = (s.putByte b cont ret).bufByte a := by
    rw [← State.putByte_withScratch, State.bufByte_putByte, State.bufByte_putByte]
    by_cases hlast : a = s.pos.toNat
    · rw [if_pos hlast]
      exact if_pos hlast
    · rw [if_neg hlast, ← hbelow a (by omega)]
      exact if_neg hlast
  by_cases h63 : s.pos = 63#6
  · have hload : (s.putByte b cont ret).phase = .load := by simp [h63]
    have hpos : s.pos.toNat + 1 = 64 := by rw [h63]; rfl
    refine ⟨fun a ha => hbytes a ?_, fun hround => ?_, fun hround => ?_⟩
    · rwa [State.visibleBytes, hload, ← hpos] at ha
    · rw [hload] at hround; cases hround
    · rw [hload] at hround; rcases hround with hround | hround <;> cases hround
  · have hphase : (s.putByte b cont ret).phase = cont := by simp [h63]
    have hpos : (s.putByte b cont ret).pos.toNat = s.pos.toNat + 1 := by
      rw [State.putByte_pos]
      bv_omega
    rw [State.readsSame_iff_of_byteWise (by rwa [hphase]), hpos]
    exact hbytes

/-- Exception entry makes no more readable. -/
theorem State.readsSame.raise (hp : s.phase.byteWise = true) (h : s.readsSame x) (c : Cause) :
    (s.raise c).readsSame x := by
  rw [State.readsSame_iff_of_byteWise (by rwa [State.raise_phase]), State.raise_pos]
  intro a ha
  rw [State.bufByte_congr (s.raise_buf c) (s.raise_resets c)]
  exact (State.readsSame_iff_of_byteWise hp).mp h a ha

/-- LDBLK reads all 64 bytes, and writes A to E and SR (R86). -/
theorem State.loadBlock_withScratch (hp : s.phase = .load) (h : s.readsSame x) :
    (s.withScratch x).loadBlock.emit (.block (s.withScratch x).blockWords)
      = (s.loadBlock.emit (.block s.blockWords)).withScratch
          { x with work := s.loadBlock.work, sr := s.blockWords } := by
  have hall : s.visibleBytes = 64 := by simp [State.visibleBytes, hp]
  have hwords : (s.withScratch x).blockWords = s.blockWords :=
    State.blockWords_congr fun a ha => h.1 a (hall ▸ ha)
  rw [State.loadBlock, hwords]
  rfl

/-- A round reads A to E and SR, and writes both (R103). -/
theorem State.roundBy_withScratch (hp : s.phase = .round) (h : s.readsSame x) (k : BitVec 2) :
    (s.withScratch x).roundBy k
      = (s.roundBy k).withScratch { x with work := (s.roundBy k).work, sr := (s.roundBy k).sr } := by
  obtain ⟨work, sr, buf, resets⟩ := x
  obtain ⟨-, hsr, hwork⟩ := h
  obtain rfl : sr = s.sr := hsr hp
  obtain rfl : work = s.work := hwork (.inl hp)
  rw [State.roundBy_eq, State.roundBy_eq]
  rfl

/-- In ROUND and FOLD no byte of the buffer is read. -/
theorem State.visibleBytes_of_windowed (h : s.phase.windowed = true) : s.visibleBytes = 0 := by
  cases hp : s.phase with
  | round | fold => simp [State.visibleBytes, hp]
  | absorb | padTerm | padZero | padLen | load | done => rw [hp] at h; cases h

/-- In ROUND and FOLD the scratch that is read is A to E and SR. -/
theorem State.readsSame_of_windowed (h : s.phase.windowed = true) (hsr : x.sr = s.sr) (hwork : x.work = s.work) :
    s.readsSame x :=
  ⟨fun a ha => absurd ha (by simp [State.visibleBytes_of_windowed h]), fun _ => hsr, fun _ => hwork⟩

/-- Instruction `i` takes the state with the other scratch to `t` with some other scratch that reads the same. -/
def Effect.Follows (s : State) (x : Scratch) (i : Instr) (t : State) : Prop :=
  ∃ y, Effect (s.withScratch x) i (t.withScratch y) ∧ t.readsSame y

/-- A micro-operation that puts a byte. -/
theorem Effect.Follows.putByte {i : Instr} {b : Byte} {cont ret : Phase} (hp : s.phase.byteWise = true)
    (hx : s.readsSame x) (hcont : cont.byteWise = true)
    (h : Effect (s.withScratch x) i ((s.withScratch x).putByte b cont ret)) :
    Effect.Follows s x i (s.putByte b cont ret) :=
  ⟨_, s.putByte_withScratch x b cont ret ▸ h, hx.putByte hp b ret hcont⟩

/-- No instruction that completes reads scratch but what is read the same. -/
theorem Effect.follows {i : Instr} (h : Effect s i t) (he : s.excluded = false) (hx : s.readsSame x) :
    Effect.Follows s x i t := by
  have hbyteWise {p : Phase} (hp : s.phase = p) (hb : p.byteWise = true) : s.phase.byteWise = true := hp ▸ hb
  cases h with
  | raises hq hi ha =>
    exact ⟨x, s.raise_withScratch x _ ▸ .raises (s := s.withScratch x) hq hi ha,
      hx.raise (Phase.byteWise_of_quiescent hq) _⟩
  | init hq =>
    exact ⟨x, .init (s := s.withScratch x) hq, State.readsSame_of_pos_zero rfl rfl⟩
  | update hp he hl =>
    exact ⟨_, s.absorbByte_withScratch x _ ▸ .update (s := s.withScratch x) hp he hl,
      State.readsSame.putByte (s := s.countByte) (hbyteWise hp rfl) hx _ _ rfl⟩
  | final hp he =>
    refine ⟨x, .final (s := s.withScratch x) hp he, (State.readsSame_iff_of_byteWise rfl).mpr ?_⟩
    exact (State.readsSame_iff_of_byteWise (hbyteWise hp rfl)).mp hx
  | rddig hp he hb => exact ⟨x, .rddig (s := s.withScratch x) hp he hb, hx⟩
  | rdstat hq => exact ⟨x, .rdstat (s := s.withScratch x) hq, hx⟩
  | padt hp => exact .putByte (hbyteWise hp rfl) hx rfl (.padt (s := s.withScratch x) hp)
  | padzByte hp hpos => exact .putByte (hbyteWise hp rfl) hx rfl (.padzByte (s := s.withScratch x) hp hpos)
  | padl hp hpos => exact .putByte (hbyteWise hp rfl) hx rfl (.padl (s := s.withScratch x) hp hpos)
  | padzEnd hp hpos =>
    refine ⟨x, .padzEnd (s := s.withScratch x) hp hpos, (State.readsSame_iff_of_byteWise rfl).mpr ?_⟩
    exact (State.readsSame_iff_of_byteWise (hbyteWise hp rfl)).mp hx
  | ldblk hp =>
    refine ⟨{ x with work := s.loadBlock.work, sr := s.blockWords }, ?_, State.readsSame_of_windowed rfl rfl rfl⟩
    rw [← State.loadBlock_withScratch hp hx]
    exact .ldblk (s := s.withScratch x) hp
  | @round k hp hs =>
    have hwindowed : (s.roundBy k).phase.windowed = true := by
      rw [s.roundBy_phase k hp]
      split <;> rfl
    refine ⟨{ x with work := (s.roundBy k).work, sr := (s.roundBy k).sr }, ?_,
      State.readsSame_of_windowed hwindowed rfl rfl⟩
    rw [← State.roundBy_withScratch hp hx]
    exact .round (s := s.withScratch x) hp hs
  | fold hp hr =>
    obtain ⟨-, -, hpos, -⟩ := (State.excluded_eq_false_iff s).mp he
    obtain ⟨work, sr, buf, resets⟩ := x
    obtain ⟨-, -, hwork⟩ := hx
    obtain rfl : work = s.work := hwork (.inr hp)
    exact ⟨⟨s.work, sr, buf, resets⟩, .fold (s := s.withScratch ⟨s.work, sr, buf, resets⟩) hp hr,
      State.readsSame_of_pos_zero (Phase.byteWise_of_isReturn hr) (hpos (.inl (by rw [hp]; rfl)))⟩

/-- No step reads scratch but what is read the same. -/
theorem StepEffect.follows (h : StepEffect s t) (hx : s.readsSame x) :
    ∃ y, StepEffect (s.withScratch x) (t.withScratch y) ∧ t.readsSame y := by
  cases h with
  | @reset rest hh =>
    exact ⟨⟨scratchWork (x.resets + 1), scratchSr (x.resets + 1), [], x.resets + 1⟩,
      .reset (s := s.withScratch x) hh, State.readsSame_of_pos_zero rfl rfl⟩
  | @illegal w rest e he hq hh hw =>
    exact ⟨x, (s.setHost rest).raise_withScratch x _ ▸ .illegal (s := s.withScratch x) he hq hh hw,
      State.readsSame.raise (s := s.setHost rest) (Phase.byteWise_of_quiescent hq) hx _⟩
  | command he hq hh hw heff =>
    obtain ⟨y, hy, hread⟩ := heff.follows he hx
    exact ⟨y, .command (s := s.withScratch x) he hq hh hw hy, hread⟩
  | wait he hq hh => exact ⟨x, .wait (s := s.withScratch x) he hq hh, hx⟩
  | hold he hq hh => exact ⟨x, .hold (s := s.withScratch x) he hq hh, hx⟩
  | micro he hq hh hi heff =>
    obtain ⟨y, hy, hread⟩ := heff.follows he hx
    exact ⟨y, .micro (s := s.withScratch x) he hq hh hi hy, hread⟩

end

/-- Settles O54: the second state is the first with other scratch; where the first completes the second has the same
case, and the states that stop are told by registers that are no scratch. -/
theorem scratchIsNeverObserved : Obligations.ScratchIsNeverObserved := by
  intro s s' h
  obtain ⟨x, rfl, hx⟩ := State.sameButScratch_iff.mp h
  have hfollows (t : State) (h : step s = .next t) : ∃ t', step (s.withScratch x) = .next t' ∧ t.sameButScratch t' := by
    obtain ⟨y, hstep, hread⟩ := (StepEffect.of_step h).follows hx
    exact ⟨_, hstep.step_eq, State.sameButScratch_iff.mpr ⟨y, rfl, hread⟩⟩
  rcases step_completes_or_stops s with ⟨t, ht⟩ | ⟨hno, ⟨he, hs⟩ | ⟨he, hp, h80, hs⟩⟩
  · exact ⟨hfollows, by simp [ht], by simp [ht]⟩
  · have hs' : step (s.withScratch x) = .fault .unreachableState := step_excluded he hno
    exact ⟨hfollows, fun r hr => hs'.trans (hs.symm.trans hr), fun r hr => by rw [hs] at hr; cases hr⟩
  · have hs' : step (s.withScratch x) = .fault .noRoundSelected := step_no_round he hno hp h80
    exact ⟨hfollows, fun r hr => hs'.trans (hs.symm.trans hr), fun r hr => by rw [hs] at hr; cases hr⟩

end Sys2Proof.Machine
end

section
/-! Who may write what (spec/10_state.md R35), the trace among it (spec/60_exceptions.md R138), LEN as a count (R25,
R123), and the accumulator that no response shows while DV = 0 (spec/45_digest_accumulator.md R117). -/

namespace Sys2Proof.Machine

/-! ## The table of write permissions (R35) -/

section
variable {s t : State} {i : Instr} (h : Effect s i t)
include h

theorem Effect.acc_writers (hne : t.acc ≠ s.acc) : i = .init ∨ i = .fold := by
  cases h with
  | init => exact .inl rfl
  | fold => exact .inr rfl
  | raises | update | padt | padzByte | padl | round => exact absurd (by simp) hne
  | final | rddig | rdstat | padzEnd | ldblk => exact absurd rfl hne

theorem Effect.work_writers (hne : t.work ≠ s.work) : i = .ldblk ∨ isRound i := by
  cases h with
  | ldblk => exact .inl rfl
  | round => exact .inr (isRound_roundOf _)
  | raises | update | padt | padzByte | padl => exact absurd (by simp) hne
  | init | final | rddig | rdstat | padzEnd | fold => exact absurd rfl hne

theorem Effect.sr_writers (hne : t.sr ≠ s.sr) : i = .ldblk ∨ isRound i := by
  cases h with
  | ldblk => exact .inl rfl
  | round => exact .inr (isRound_roundOf _)
  | raises | update | padt | padzByte | padl => exact absurd (by simp) hne
  | init | final | rddig | rdstat | padzEnd | fold => exact absurd rfl hne

theorem Effect.buf_writers (a : Nat) (hne : t.bufByte a ≠ s.bufByte a) : a = s.pos.toNat ∧ writesByte i := by
  have atPos {b : Byte} (hput : t.bufByte a = if a = s.pos.toNat then b else s.bufByte a) : a = s.pos.toNat := by
    by_contra ha
    exact hne (hput.trans (if_neg ha))
  cases h with
  | update => exact ⟨atPos (s.bufByte_absorbByte _ a), .inl ⟨_, rfl⟩⟩
  | padt => exact ⟨atPos (s.bufByte_putByte _ _ _ a), .inr (.inl rfl)⟩
  | padzByte => exact ⟨atPos (s.bufByte_putByte _ _ _ a), .inr (.inr (.inl rfl))⟩
  | padl => exact ⟨atPos (s.bufByte_putByte _ _ _ a), .inr (.inr (.inr rfl))⟩
  | raises => exact absurd (State.bufByte_congr (s.raise_buf _) (s.raise_resets _) a) hne
  | round => exact absurd (State.bufByte_congr (s.roundBy_buf _) (s.roundBy_resets _) a) hne
  | init | final | rddig | rdstat | padzEnd | ldblk | fold => exact absurd rfl hne

/-- INIT clears LEN and an admitted UPDATE counts one, without wrapping (R25, R123). -/
theorem Effect.len_cases :
    t.len = s.len ∨ (i = .init ∧ t.len = 0#61)
    ∨ (∃ b, i = .update b ∧ s.phase = .absorb ∧ s.err = false ∧ t.len.toNat = s.len.toNat + 1) := by
  cases h with
  | init => exact .inr (.inl ⟨rfl, rfl⟩)
  | update hp he hl =>
    exact .inr (.inr ⟨_, rfl, hp, he, by rw [State.absorbByte_len, State.countByte_len_toNat hl]⟩)
  | raises | padt | padzByte | padl | round => exact .inl (by simp)
  | final | rddig | rdstat | padzEnd | ldblk | fold => exact .inl rfl

theorem Effect.len_writers (hne : t.len ≠ s.len) : i = .init ∨ ∃ b, i = .update b := by
  rcases h.len_cases with hsame | ⟨hi, -⟩ | ⟨b, hi, -⟩
  · exact absurd hsame hne
  · exact .inl hi
  · exact .inr ⟨b, hi⟩

theorem Effect.pos_writers (hne : t.pos ≠ s.pos) : i = .init ∨ writesByte i := by
  cases h with
  | init => exact .inl rfl
  | update => exact .inr (.inl ⟨_, rfl⟩)
  | padt => exact .inr (.inr (.inl rfl))
  | padzByte => exact .inr (.inr (.inr (.inl rfl)))
  | padl => exact .inr (.inr (.inr (.inr rfl)))
  | raises | round => exact absurd (by simp) hne
  | final | rddig | rdstat | padzEnd | ldblk | fold => exact absurd rfl hne

theorem Effect.phase_writers (hne : t.phase ≠ s.phase) :
    i = .init ∨ (s.pos = 63#6 ∧ ∃ b, i = .update b) ∨ i = .final ∨ i = .padt ∨ i = .padz ∨ i = .padl ∨ i = .ldblk
      ∨ (s.t = 79#7 ∧ isRound i) ∨ i = .fold := by
  cases h with
  | update hp =>
    have h63 : s.pos = 63#6 := by
      by_contra h63
      simp [h63, hp] at hne
    exact .inr (.inl ⟨h63, _, rfl⟩)
  | @round k hp =>
    have h79 : s.t = 79#7 := by
      by_contra h79
      simp [s.roundBy_phase k hp, h79, hp] at hne
    simp [h79, isRound_roundOf]
  | init | final | padt | padzEnd | padzByte | padl | ldblk | fold => simp
  | raises => exact absurd (by simp) hne
  | rddig | rdstat => exact absurd rfl hne

theorem Effect.t_writers (hne : t.t ≠ s.t) : i = .init ∨ i = .ldblk ∨ isRound i := by
  cases h with
  | init => exact .inl rfl
  | ldblk => exact .inr (.inl rfl)
  | round => exact .inr (.inr (isRound_roundOf _))
  | raises | update | padt | padzByte | padl => exact absurd (by simp) hne
  | final | rddig | rdstat | padzEnd | fold => exact absurd rfl hne

theorem Effect.ret_writers (hne : t.ret ≠ s.ret) : i = .init ∨ (s.pos = 63#6 ∧ writesByte i) := by
  have atLast {ret : Phase} (hput : t.ret = if s.pos = 63#6 then ret else s.ret) : s.pos = 63#6 := by
    by_contra h63
    exact hne (hput.trans (if_neg h63))
  cases h with
  | init => exact .inl rfl
  | update => exact .inr ⟨atLast (s.absorbByte_ret _), .inl ⟨_, rfl⟩⟩
  | padt => exact .inr ⟨atLast (s.putByte_ret ..), .inr (.inl rfl)⟩
  | padzByte => exact .inr ⟨atLast (s.putByte_ret ..), .inr (.inr (.inl rfl))⟩
  | padl => exact .inr ⟨atLast (s.putByte_ret ..), .inr (.inr (.inr rfl))⟩
  | raises | round => exact absurd (by simp) hne
  | final | rddig | rdstat | padzEnd | ldblk | fold => exact absurd rfl hne

theorem Effect.status_writers (hne : t.err ≠ s.err ∨ t.ecode ≠ s.ecode) :
    i = .init ∨ (i.isCommand = true ∧ ∃ c, s.admission i = some c) := by
  cases h with
  | init => exact .inl rfl
  | raises hq hi ha => exact .inr ⟨hi, _, ha⟩
  | update | padt | padzByte | padl | round => simp at hne
  | final | rddig | rdstat | padzEnd | ldblk | fold => exact (hne.elim (· rfl) (· rfl)).elim

/-- RDDIG and RDSTAT that raise nothing write the response alone. -/
theorem Effect.reads (hi : i = .rdstat ∨ ∃ b, i = .rddig b) (ha : s.admission i = none) :
    t = { s with resp := t.resp } := by
  have hcommand : i.isCommand = true := by rcases hi with rfl | ⟨b, rfl⟩ <;> rfl
  cases h with
  | raises _ _ hc => rw [ha] at hc; cases hc
  | rddig | rdstat => rfl
  | round => simp at hcommand
  | init | update | final | padt | padzEnd | padzByte | padl | ldblk | fold => simp at hi

/-- Only LDBLK and the rounds emit (R138). -/
theorem Effect.trace_writers (hne : t.trace ≠ s.trace) : i = .ldblk ∨ isRound i := by
  cases h with
  | ldblk => exact .inl rfl
  | round => exact .inr (isRound_roundOf _)
  | raises | update | padt | padzByte | padl => exact absurd (by simp) hne
  | init | final | rddig | rdstat | padzEnd | fold => exact absurd rfl hne

end

/-- Settles O48: the table's columns, register by register. -/
theorem writePermissions : Obligations.WritePermissions := by
  intro s t i hexec
  have h := Effect.of_exec hexec
  exact ⟨h.acc_writers, h.work_writers, h.sr_writers, h.buf_writers, h.len_writers, h.pos_writers, h.phase_writers,
    h.t_writers, h.ret_writers, h.status_writers, h.reads⟩

/-- Settles O52: of the instructions LDBLK and the rounds alone write the trace. -/
theorem onlyCompressionEmits : Obligations.OnlyCompressionEmits := by
  intro s t i hexec hldblk hround
  by_contra hne
  exact ((Effect.of_exec hexec).trace_writers hne).elim hldblk hround

/-! ## LEN (R25, R123) -/

/-- Settles O50: of the instructions INIT and UPDATE alone write LEN, and UPDATE is admitted below its limit. -/
theorem lengthNeverWraps : Obligations.LengthNeverWraps := by
  intro s t h hne
  cases StepEffect.of_step h with
  | reset hh => exact .inr ⟨rfl, .inl ⟨_, hh⟩⟩
  | illegal => exact absurd (State.raise_len ..) hne
  | wait | hold => exact absurd rfl hne
  | command he hq hh hw heff =>
    rcases heff.len_cases with hsame | ⟨rfl, hzero⟩ | ⟨b, -, hp, herr, hcount⟩
    · exact absurd hsame hne
    · exact .inr ⟨hzero, .inr ⟨_, eq_zero_of_decodeCommand_init hw ▸ hh⟩⟩
    · exact .inl ⟨hcount, hp, herr⟩
  | micro he hq hh hi heff => rcases heff.len_writers hne with rfl | ⟨b, rfl⟩ <;> cases hi

/-! ## The accumulator (R66, R117) -/

/-- The state with another accumulator in its place. -/
def State.withAcc (s : State) (h : Accumulator) : State := { s with acc := h }

theorem State.digestPort_of_dv {s : State} (h : s.dv = false) : s.digestPort = 0 := by
  simp [State.digestPort, h]

theorem State.dv_of_err {s : State} (h : s.err = true) : s.dv = false := by
  simp [State.dv, h]

theorem State.dv_of_not_done {s : State} (h : s.phase ≠ .done) : s.dv = false := by
  simp [State.dv, h]

/-- With DV = 0 RDDIG raises (R66, R124). -/
theorem exec_rddig_hidden {s : State} (hq : s.phase.quiescent = true) (hdv : s.dv = false) (b : Byte) :
    ∃ c, exec (.rddig b) s = .next (s.raise c) := by
  have hr : s.err = true ∨ s.phase = .absorb := by
    rcases Phase.quiescent_iff.mp hq with hp | hp
    · exact .inr hp
    · exact .inl (by simpa [State.dv, hp] using hdv)
  rw [exec_rddig b hq, if_pos hr]
  split <;> exact ⟨_, rfl⟩

/-- With DV = 0 the digest port shows nothing of the accumulator (R117). -/
theorem State.digestPort_withAcc {t : State} (h : t.dv = false) (acc : Accumulator) :
    (t.withAcc acc).digestPort = t.digestPort := by
  have hacc : (t.withAcc acc).dv = false := h
  rw [State.digestPort_of_dv h, State.digestPort_of_dv hacc]

theorem State.raise_withAcc (s : State) (acc : Accumulator) (c : Cause) :
    (s.withAcc acc).raise c = (s.raise c).withAcc acc := by
  unfold State.raise
  rw [apply_ite (State.withAcc · acc)]
  rfl

theorem State.absorbByte_withAcc (s : State) (acc : Accumulator) (b : Byte) :
    (s.withAcc acc).absorbByte b = (s.absorbByte b).withAcc acc := by
  unfold State.absorbByte State.putByte
  rw [apply_ite (State.respond · (respOk 0x00#8)), apply_ite (State.respond · (respOk 0x00#8)),
    apply_ite (State.withAcc · acc)]
  rfl

/-- With DV = 0 a host command leaves DV = 0, and reads nothing of the accumulator. -/
theorem Effect.hidesAcc {s t : State} {i : Instr} (h : Effect s i t) (hi : i.isCommand = true) (hdv : s.dv = false)
    (acc : Accumulator) : ∃ acc', Effect (s.withAcc acc) i (t.withAcc acc') ∧ t.dv = false := by
  cases h with
  | raises hq hc ha =>
    exact ⟨acc, s.raise_withAcc acc _ ▸ .raises (s := s.withAcc acc) hq hc ha, State.dv_of_err (s.raise_err _)⟩
  | init hq => exact ⟨Accumulator.iv, .init (s := s.withAcc acc) hq, State.dv_of_not_done nofun⟩
  | @update b hp he hl =>
    have hphase : (s.absorbByte b).phase ≠ .done := by
      rw [State.absorbByte_phase]
      split <;> decide
    exact ⟨acc, s.absorbByte_withAcc acc b ▸ .update (s := s.withAcc acc) hp he hl, State.dv_of_not_done hphase⟩
  | final hp he => exact ⟨acc, .final (s := s.withAcc acc) hp he, State.dv_of_not_done nofun⟩
  | rddig hp he hb => simp [State.dv, hp, he] at hdv
  | rdstat hq => exact ⟨acc, .rdstat (s := s.withAcc acc) hq, hdv⟩
  | padt | padzEnd | padzByte | padl | ldblk | fold => cases hi
  | round => simp at hi

/-- Settles O53: with DV = 0 the port is zero, RDDIG raises, and every other command does the same to all but the
accumulator. -/
theorem accumulatorIsHidden : Obligations.AccumulatorIsHidden := by
  intro s acc hq hdv
  refine ⟨State.digestPort_of_dv hdv, fun b => ?_, fun i t hi hexec => ?_⟩
  · obtain ⟨c, hc⟩ := exec_rddig_hidden hq hdv b
    exact ⟨_, hc, s.raise_resp c⟩
  · have heff := Effect.of_exec hexec
    obtain ⟨acc', hother, htdv⟩ := heff.hidesAcc hi hdv acc
    exact ⟨_, hother.exec_eq, rfl, State.digestPort_withAcc htdv acc', rfl, rfl, (heff.command_ports hi).1⟩

end Sys2Proof.Machine
end

section
/-! Single steps (spec/40_host_commands.md R62, spec/60_exceptions.md R139, R140, spec/70_reset_and_hazards.md R142 to
R149): which instruction a step runs, the placed one among them, what waits, and what a reset leaves. -/

namespace Sys2Proof.Machine

/-! ## The instruction a step runs -/

/-- Settles O6: a quiescent core transfers the word offered, and a legal word is its instruction. -/
theorem stepRunsTheCommand : Obligations.StepRunsTheCommand := fun _ _ _ _ => step_exec

/-- Settles O7: a busy core executes what the sequencer word selects; the host's moves are no part of that word. -/
theorem stepRunsTheMicroOperation : Obligations.StepRunsTheMicroOperation := by
  intro s u i he hq hh hu hdec
  have hu' : (s.setHost (busyMoves s.host)).uop = some u := hu
  rw [step_micro he hq hh, State.microStep_eq hu' hdec]

/-- Settles O8: with no move left the core holds its state, and a wait passes. -/
theorem stepHoldsTheState : Obligations.StepHoldsTheState :=
  fun _ he hq => ⟨fun hh => (StepEffect.hold he hq hh).step_eq, fun _ hh => (StepEffect.wait he hq hh).step_eq⟩

/-- Settles O11: a busy step leaves an offered command among the moves, and a host command needs a quiescent phase. -/
theorem busyCommandWaits : Obligations.BusyCommandWaits := by
  refine ⟨fun s t w rest hq hh h => ?_, fun s i hq hi => ?_⟩
  · have hmoves : busyMoves s.host = s.host := by rw [hh]; rfl
    cases StepEffect.of_step h with
    | reset hreset => rw [hh] at hreset; cases hreset
    | illegal _ hq' | command _ hq' | wait _ hq' | hold _ hq' => exact absurd (hq.symm.trans hq') (by decide)
    | micro _ _ _ hi heff => exact (heff.settles hi).host.trans hmoves
  · obtain ⟨effect, hexec⟩ := exec_isCommand hi s
    rw [hexec, State.command, if_neg (by simp [hq])]

/-! ## Reset -/

/-- Settles O14: reset comes before everything else, loads the registers of R142, and keeps the trace. -/
theorem resetAtAnyMoment : Obligations.ResetAtAnyMoment := by
  intro s rest hh
  have hvalid : (s.setHost rest).resetEvent.respValid = false := by simp [State.respValid]
  exact ⟨_, step_reset hh, rfl, rfl, rfl, rfl, rfl, rfl, rfl, rfl, rfl, rfl, rfl, rfl,
    State.status_of_absorb rfl rfl rfl, State.dv_of_absorb rfl, State.cmdReady_of_absorb rfl, hvalid, rfl, rfl⟩

/-- Settles O15: in ABSORB with all counts zero and no byte written. -/
theorem invariantsAtReset : Obligations.InvariantsAtReset :=
  ⟨(State.inv_iff _).mpr ⟨⟨⟨rfl, rfl⟩, rfl, fun _ => rfl, fun _ => rfl⟩, State.reset_buf_wf⟩, nofun,
    State.windowHolds_of_not_windowed rfl, State.roundsHold_of_not_windowed rfl, State.errorQuiet_of_err rfl rfl⟩

/-! ## A placed instruction -/

/-- A state whose sequencer was put in a phase, with T zero outside ROUND, is none of those U5 leaves out. -/
theorem State.enterPhase_not_excluded (s : State) {p : Phase} {t : BitVec 7} (ht : p ≠ .round → t = 0#7) :
    (s.enterPhase p t).excluded = false := by
  rw [State.excluded_eq_false_iff]
  refine ⟨?ret, fun hp => ?padLen, fun hp => ?zero, ht, by simp [State.enterPhase]⟩
  case ret =>
    show (if s.ret.isReturn then s.ret else .absorb).isReturn = true
    split
    · assumption
    · rfl
  case padLen =>
    obtain rfl : p = .padLen := hp
    show 56 ≤ (if s.pos.toNat < 56 then 56#6 else s.pos).toNat
    split
    · decide
    · omega
  case zero =>
    have hp : p.compressing = true ∨ p = .done := hp
    show posFor p s.pos = 0#6
    cases p with
    | load | round | fold | done => rfl
    | absorb | padTerm | padZero | padLen => simp [Phase.compressing] at hp

/-- The PHASE of a sequencer word, as a name, has that code. -/
theorem Phase.code_ofCode : ∀ c : BitVec 3, (Phase.ofCode c).code = c := by decide

/-- A sequencer word of a quiescent phase selects nothing (R53). -/
theorem decodeMicro_quiescent : ∀ u : UopWord, (Phase.ofCode (uopPhase u)).quiescent = true →
    decodeMicro u = .error .quiescentPhase := by decide

theorem uopPhase_append_uopSel : ∀ u : UopWord, uopPhase u ++ uopSel u = u := by decide

/-- Outside ROUND SEL is ignored (R53). -/
theorem decodeMicro_ignores_sel : ∀ u : UopWord, Phase.ofCode (uopPhase u) ≠ .round →
    decodeMicro (uopPhase u ++ 0#2) = decodeMicro u := by decide

/-- The first round of a SEL has it (R29). -/
theorem sel_first : ∀ k : BitVec 2, sel (BitVec.ofNat 7 (20 * k.toNat)) = some k := by decide

/-- In a phase of the word's own code, and in ROUND with T of the word's SEL, the sequencer word selects what the word
does. -/
theorem State.uop_of_phase {s : State} {u : UopWord} (hp : s.phase = Phase.ofCode (uopPhase u))
    (ht : s.phase = .round → sel s.t = some (uopSel u)) : ∃ u', s.uop = some u' ∧ decodeMicro u' = decodeMicro u := by
  have hcode : s.phase.code = uopPhase u := by rw [hp, Phase.code_ofCode]
  by_cases hround : s.phase = .round
  · refine ⟨u, ?_, rfl⟩
    rw [State.uop, if_pos hround, ht hround, hcode]
    exact congrArg some (uopPhase_append_uopSel u)
  · refine ⟨uopPhase u ++ 0#2, ?_, decodeMicro_ignores_sel u (hp ▸ hround)⟩
    rw [State.uop, if_neg hround, hcode]

/-- `placeMicro` puts the sequencer in the word's phase, in ROUND with T of the word's SEL, and has the host wait. -/
theorem State.placeMicro_eq (s : State) (w : Nat) :
    ∃ t : BitVec 7, s.placeMicro w
        = (s.enterPhase (Phase.ofCode (uopPhase (BitVec.ofNat 5 w))) t).setHost (.wait :: s.host)
      ∧ (Phase.ofCode (uopPhase (BitVec.ofNat 5 w)) ≠ .round → t = 0#7)
      ∧ (Phase.ofCode (uopPhase (BitVec.ofNat 5 w)) = .round → sel t = some (uopSel (BitVec.ofNat 5 w))) := by
  refine ⟨_, rfl, fun hp => if_neg hp, fun hp => ?_⟩
  rw [if_pos hp]
  split
  · assumption
  · exact sel_first _

theorem step_placeMicro (s : State) {w : Nat} {i : Instr} (h : decodeMicro (BitVec.ofNat 5 w) = .ok i) :
    step (s.placeMicro w) = exec i ((s.placeMicro w).setHost s.host) := by
  obtain ⟨t, hplace, hzero, hsel⟩ := s.placeMicro_eq w
  have hbusy : (Phase.ofCode (uopPhase (BitVec.ofNat 5 w))).quiescent = false := by
    by_contra hq
    rw [decodeMicro_quiescent _ (Bool.not_eq_false _ ▸ hq)] at h
    cases h
  have he := s.enterPhase_not_excluded hzero
  rw [hplace]
  generalize hu : s.enterPhase (Phase.ofCode (uopPhase (BitVec.ofNat 5 w))) t = v at he
  have hvp : v.phase = Phase.ofCode (uopPhase (BitVec.ofNat 5 w)) := by rw [← hu]; rfl
  have hvt : v.t = t := by rw [← hu]; rfl
  obtain ⟨u, huop, hdec⟩ := State.uop_of_phase (s := v.setHost s.host) hvp (fun hr => hvt ▸ hsel (hvp ▸ hr))
  rw [step_micro (s := v.setHost (.wait :: s.host)) he (hvp ▸ hbusy) (by simp)]
  exact State.microStep_eq huop (hdec.trans h)

theorem step_placeCommand (s : State) {w : Nat} {i : Instr} (h : decodeCommand (BitVec.ofNat 12 w) = .ok i) :
    step (s.placeCommand w) = exec i ((s.placeCommand w).setHost s.host) := by
  have hq : (if s.phase.quiescent then s.phase else .absorb).quiescent = true := by
    split
    · assumption
    · rfl
  exact step_exec (s := s.placeCommand w) (s.enterPhase_not_excluded fun _ => rfl) hq rfl h

/-- Settles O9: a row of at most 8 bits is placed in the sequencer, a longer one at the command port. -/
theorem placedInstructionRuns : Obligations.PlacedInstructionRuns := by
  intro s nbits w i h
  have ok_of_toOption {x : Except DecodeError Instr} (hx : x.toOption = some i) : x = .ok i := by
    cases x with
    | ok j => exact congrArg Except.ok (Option.some.inj hx)
    | error e => cases hx
  unfold decodeTableWord at h
  unfold State.withFetchWord State.placeWord
  by_cases hbits : nbits ≤ 8
  · rw [if_pos hbits] at h ⊢
    split at h
    · exact step_placeMicro s (ok_of_toOption h)
    · cases h
  · rw [if_neg hbits] at h ⊢
    split at h
    · exact step_placeCommand s (ok_of_toOption h)
    · cases h

end Sys2Proof.Machine
end

section
/-! The byte-order primitives (spec/00_scope.md R11, R12) as numbers, each the inverse of the other. -/

namespace Sys2Proof.Machine

/-- The bytes of a word made of four bytes are those (R12). -/
theorem byte32_be32 (b0 b1 b2 b3 : Byte) :
    byte32 (be32 b0 b1 b2 b3) 0 = b0 ∧ byte32 (be32 b0 b1 b2 b3) 1 = b1
      ∧ byte32 (be32 b0 b1 b2 b3) 2 = b2 ∧ byte32 (be32 b0 b1 b2 b3) 3 = b3 := by
  have h0 := b0.isLt
  have h1 := b1.isLt
  have h2 := b2.isLt
  have h3 := b3.isLt
  refine ⟨?_, ?_, ?_, ?_⟩ <;> apply BitVec.eq_of_toNat_eq <;> rw [byte32_toNat, be32_toNat] <;> omega

/-- The word made of a word's four bytes is that word (R12). -/
theorem be32_byte32 (w : Word) : be32 (byte32 w 0) (byte32 w 1) (byte32 w 2) (byte32 w 3) = w := by
  have := w.isLt
  apply BitVec.eq_of_toNat_eq
  rw [be32_toNat, byte32_toNat, byte32_toNat, byte32_toNat, byte32_toNat]
  omega

/-- Settles O41: a rotation moves each bit, and the byte-order primitives are division and sum by powers of 256. -/
theorem rotationAndByteOrder : Obligations.RotationAndByteOrder :=
  ⟨fun x _ _ _ hn hi => rotl32_getLsbD x hn hi, byte32_be32, be32_byte32, fun v _ hj => byte64_toNat v hj⟩

end Sys2Proof.Machine
end

section
/-! The assembler (spec/30_encoding.md R61): the words its operands make, and that every line but `.word` emits legal
words only. -/

namespace Sys2Proof.Machine

/-! ## The words of operands -/

/-- An opcode's base and an operand make the word of the opcode before the byte. -/
theorem ofNat_eq_append (op : BitVec 4) {n : Nat} (hn : n ≤ 255) :
    BitVec.ofNat 12 (op.toNat * 256 + n) = op ++ BitVec.ofNat 8 n := by
  have := op.isLt
  apply BitVec.eq_of_toNat_eq
  rw [opcode_append_toNat, BitVec.toNat_ofNat, BitVec.toNat_ofNat]
  omega

theorem asmUpdate_eq {n : Nat} (hn : n ≤ 255) : asmUpdate n = some (0x1#4 ++ BitVec.ofNat 8 n) :=
  (if_pos hn).trans (congrArg some (ofNat_eq_append 0x1#4 hn))

theorem asmRddig_eq {n : Nat} (hn : n ≤ 19) : asmRddig n = some (0x3#4 ++ BitVec.ofNat 8 n) :=
  (if_pos hn).trans (congrArg some (ofNat_eq_append 0x3#4 (by omega)))

theorem asmUpdate_none {n : Nat} (hn : 255 < n) : asmUpdate n = none := if_neg (by omega)

theorem asmRddig_none {n : Nat} (hn : 19 < n) : asmRddig n = none := if_neg (by omega)

theorem decodeCommand_asmRddig {n : Nat} (hn : n ≤ 19) :
    decodeCommand (0x3#4 ++ BitVec.ofNat 8 n) = .ok (.rddig (BitVec.ofNat 8 n)) :=
  decodeCommand_rddig (by rw [BitVec.toNat_ofNat]; omega)

/-! ## Legal words -/

/-- The word is that of a command. -/
def legalWord (w : CmdWord) : Prop := ∃ i, decodeCommand w = .ok i

theorem legalWord_asmUpdate {n : Nat} {w : CmdWord} (h : asmUpdate n = some w) : legalWord w := by
  rcases Nat.lt_or_ge 255 n with hn | hn
  · rw [asmUpdate_none hn] at h
    cases h
  · rw [asmUpdate_eq hn] at h
    cases h
    exact ⟨_, decodeCommand_update _⟩

theorem legalWord_asmRddig {n : Nat} {w : CmdWord} (h : asmRddig n = some w) : legalWord w := by
  rcases Nat.lt_or_ge 19 n with hn | hn
  · rw [asmRddig_none hn] at h
    cases h
  · rw [asmRddig_eq hn] at h
    cases h
    exact ⟨_, decodeCommand_asmRddig hn⟩

/-- Words made one by one, each of them legal. -/
theorem legalWord_of_mapM {α : Type} {f : α → Option CmdWord} (hf : ∀ a w, f a = some w → legalWord w) {xs : List α}
    {words : List CmdWord} (h : xs.mapM f = some words) : ∀ w ∈ words, legalWord w := by
  induction xs generalizing words with
  | nil =>
    cases h
    simp
  | cons x xs ih =>
    rw [List.mapM_cons] at h
    cases hx : f x with
    | none => simp [hx] at h
    | some v =>
      cases hxs : xs.mapM f with
      | none => simp [hx, hxs] at h
      | some vs =>
        obtain rfl : v :: vs = words := by simpa [hx, hxs] using h
        exact List.forall_mem_cons.mpr ⟨hf x v hx, ih hxs⟩

theorem legalWord_asmText {text : List Char} {words : List CmdWord} (h : asmText text = some words) :
    ∀ w ∈ words, legalWord w := by
  refine legalWord_of_mapM (fun c w hc => ?_) h
  split at hc
  · exact legalWord_asmUpdate hc
  · cases hc

theorem legalWord_asmDigest {words : List CmdWord} (h : asmDigest = some words) : ∀ w ∈ words, legalWord w :=
  legalWord_of_mapM (fun _ _ => legalWord_asmRddig) h

/-- HASH is INIT, the UPDATES of its text, FINAL and RDDIGEST (R61). -/
theorem asmWords_hash_iff (text : List Char) (words : List CmdWord) :
    asmWords (.hash text) = some words ↔
      ∃ u d, asmWords (.updates text) = some u ∧ asmWords .rddigest = some d
        ∧ words = [0x000#12] ++ u ++ [0x200#12] ++ d := by
  simp only [asmWords]
  cases asmText text <;> cases asmDigest <;> simp [eq_comm]

/-- A line that is no `.word` emits legal words. -/
theorem legalWord_asmWords {line : AsmLine} {words : List CmdWord} (hline : ∀ w, line ≠ .word w)
    (h : asmWords line = some words) : ∀ w ∈ words, legalWord w := by
  have one {x : Option CmdWord} (hx : ∀ w, x = some w → legalWord w) (h : x.map (fun w => [w]) = some words) :
      ∀ w ∈ words, legalWord w := by
    obtain ⟨v, hv, rfl⟩ := Option.map_eq_some_iff.mp h
    simpa using hx v hv
  cases line with
  | init =>
    cases h
    simpa using ⟨_, decodeCommand_init⟩
  | final =>
    cases h
    simpa using ⟨_, decodeCommand_final⟩
  | rdstat =>
    cases h
    simpa using ⟨_, decodeCommand_rdstat⟩
  | update n => exact one (fun _ => legalWord_asmUpdate) h
  | rddig n => exact one (fun _ => legalWord_asmRddig) h
  | updates text => exact legalWord_asmText h
  | updatex bytes => exact legalWord_of_mapM (fun _ _ => legalWord_asmUpdate) h
  | updaten n b =>
    obtain ⟨v, hv, rfl⟩ := Option.map_eq_some_iff.mp h
    intro w hw
    rw [List.eq_of_mem_replicate hw]
    exact legalWord_asmUpdate hv
  | rddigest => exact legalWord_asmDigest h
  | hash text =>
    obtain ⟨u, d, hu, hd, rfl⟩ := (asmWords_hash_iff text words).mp h
    intro w hw
    simp only [List.mem_append, List.mem_singleton] at hw
    rcases hw with ((rfl | hw) | rfl) | hw
    · exact ⟨_, decodeCommand_init⟩
    · exact legalWord_asmText hu w hw
    · exact ⟨_, decodeCommand_final⟩
    · exact legalWord_asmDigest hd w hw
  | word w => exact absurd rfl (hline w)

/-- Settles O60: line by line, the words of its operands. -/
theorem assemblerEmitsLegalWords : Obligations.AssemblerEmitsLegalWords := by
  refine ⟨fun _ _ hline h => legalWord_asmWords hline h, fun n hn => ⟨_, ?_, decodeCommand_update _⟩, fun n hn => ?_,
    fun n hn => ⟨_, ?_, decodeCommand_asmRddig hn⟩, fun n hn => ?_, asmWords_hash_iff⟩
  · rw [asmWords, asmUpdate_eq hn, Option.map_some]
  · rw [asmWords, asmUpdate_none hn, Option.map_none]
  · rw [asmWords, asmRddig_eq hn, Option.map_some]
  · rw [asmWords, asmRddig_none hn, Option.map_none]

end Sys2Proof.Machine
end
